-- ==== Sys2Proof/Word.lean ====
section
/-! DEFINITION. The bit-vector types of the engine: the state word (10_state R11), the opcode, the seed operand
and the command word (30_encoding R47). -/

namespace Sys2Proof

/-- A state word, a seed word or an output: 32 bits, unsigned, bit 31 the most significant (R8, R11). -/
abbrev Word := BitVec 32

/-- The field `op` of a command (R47), the port `cmd_op` (R140). -/
abbrev Opcode := BitVec 2

/-- The packed seed operand, the port `cmd_seed` (R47, R140): word `w_i` in bits `32i+31 : 32i`. -/
abbrev SeedBits := BitVec 192

/-- A command word of format CS (R47), `op` in bits 1:0 and the seed words above it. A command of format C0 is the
two bits `op` alone; the model carries it as a command word whose upper bits no decoder looks at (log entry 17). -/
abbrev CommandWord := BitVec 194

end Sys2Proof
end

