-- ==== Sys2Proof/Syntax.lean ====
section
/-! DEFINITION. The commands of the engine, one constructor per row of spec/opcode_table.json (30_encoding R46,
R48). -/

namespace Sys2Proof

/-- `Command` of R46. The table has two rows RSVD, one for each reserved code, so `RSVD(op)` is the two constructors
`rsvd10` and `rsvd11`: a reserved command cannot carry a code that is not reserved (log entry 10). -/
inductive Instr where
  /-- INIT, `op` = 2'b00 (R66). -/
  | init
  /-- DRAW, `op` = 2'b01 (R71). -/
  | draw
  /-- SEED, `op` = 2'b10, a command only when `SEED_EXT` = 1; the words for a0, a1, a2, b0, b1, b2 (R101). -/
  | seed (w0 w1 w2 w3 w4 w5 : Word)
  /-- RSVD 2'b10, reserved only when `SEED_EXT` = 0 (R48, R53). -/
  | rsvd10
  /-- RSVD 2'b11, reserved always (R48, R53). -/
  | rsvd11
  deriving DecidableEq, Repr

end Sys2Proof
end

