-- ==== Sys2Proof/WellFormed.lean ====
section
/-! DEFINITION. Which commands exist in which build (30_encoding R46, R48). -/

namespace Sys2Proof

/-- The command belongs to the build: SEED exists only when `SEED_EXT` = 1, and 2'b10 is a reserved code only when
`SEED_EXT` = 0 (R46, R48, R107). -/
def WellFormed (seedExt : Bool) : Instr → Bool
  | .init => true
  | .draw => true
  | .seed _ _ _ _ _ _ => seedExt
  | .rsvd10 => !seedExt
  | .rsvd11 => true

end Sys2Proof
end

