-- ==== Sys2Proof/Decode.lean ====
section
/-! DEFINITION. The decoder of command words (30_encoding R47, R48, R59), then the encoder, from the same table. -/

namespace Sys2Proof

/-- Bits 1:0 of a command word (R47). -/
def opField (cmd : CommandWord) : Opcode := cmd.extractLsb' 0 2

/-- The seed word `w_i` of a command word of format CS: bits `32i+33 : 32i+2` (R47, R33). -/
def seedField (cmd : CommandWord) (i : Nat) : Word := cmd.extractLsb' (32 * i + 2) 32

/-- `decode` of R59, total on every command word; `op` alone selects the operation (R48) and the seed fields of a
command that is not SEED are ignored (R52). -/
def decode (seedExt : Bool) (cmd : CommandWord) : Instr :=
  if opField cmd = 0b00#2 then .init
  else if opField cmd = 0b01#2 then .draw
  else if opField cmd = 0b10#2 then
    if seedExt then
      .seed (seedField cmd 0) (seedField cmd 1) (seedField cmd 2)
        (seedField cmd 3) (seedField cmd 4) (seedField cmd 5)
    else .rsvd10
  else .rsvd11

/-- The command word of a port whose pins carry `op` and `seed`: `{cmd_seed, cmd_op}` (R47). -/
def commandWord (op : Opcode) (seed : SeedBits) : CommandWord := seed ++ op

/-- The number of bits of every command of a build (R47, R55). -/
def commandLength (seedExt : Bool) : Nat := if seedExt then 194 else 2

/-- A command of format C0, the two bits `op`, in a build with `SEED_EXT` = 0 (R47, R59). -/
def decodeC0 (op : Opcode) : Instr := decode false (commandWord op 0)

/-- The decoder on a word numbered as the opcode table numbers it. The bits above `nbits` are 0 and the word is laid
out to the longest command, so it is read as format CS (log entry 4); a number that does not fit in the 194 bits of a
command word is no command. -/
def decodeTableWord (nbits w : Nat) : Option Instr :=
  if w % 2 ^ nbits < 2 ^ 194 then some (decode true (BitVec.ofNat 194 (w % 2 ^ nbits))) else none

/-- The operation code of a command (R48). -/
def Instr.op : Instr → Opcode
  | .init => 0b00#2
  | .draw => 0b01#2
  | .seed _ _ _ _ _ _ => 0b10#2
  | .rsvd10 => 0b10#2
  | .rsvd11 => 0b11#2

/-- The seed operand packed for the port `cmd_seed`, `w0` lowest (R47, R33). -/
def packSeed (w0 w1 w2 w3 w4 w5 : Word) : SeedBits := w5 ++ w4 ++ w3 ++ w2 ++ w1 ++ w0

/-- The seed fields of a command; the ignored fields are written as 0 (R59). -/
def Instr.seedBits : Instr → SeedBits
  | .init => 0
  | .draw => 0
  | .seed w0 w1 w2 w3 w4 w5 => packSeed w0 w1 w2 w3 w4 w5
  | .rsvd10 => 0
  | .rsvd11 => 0

/-- The command word of a command (R59). Format C0 is its two low bits, `Instr.op`. -/
def encode (i : Instr) : CommandWord := commandWord i.op i.seedBits

end Sys2Proof
end

