-- ==== Sys2Proof/Config.lean ====
section
/-! DEFINITION. What an implementation fixes (00_scope R6, second group). Only `SEED_EXT` has an observable effect.
`LAT(op)` is an argument of the clock edge (Machine/Binding.lean), since it may vary from one command to the next
(R137); `PW` has no counterpart, since the model computes in the integers (R84). -/

namespace Sys2Proof

/-- `SEED_EXT` of the built engine (R6, D8: open). It has no body, so every statement about the state after reset
holds for both builds. Log entry 1, DESIGN CHOICE (safe). -/
opaque Config.seedExt : Bool

end Sys2Proof
end

