-- ==== Sys2Proof/Machine/Constants.lean ====
section
/-! DEFINITION. The constants of the logic (00_scope R6, first group; 10_state R17: they are not state). -/

namespace Sys2Proof.Machine

/-- The modulus of component A (R6). -/
def m1 : Nat := 4294967087

/-- The modulus of component B (R6). -/
def m2 : Nat := 4294944443

/-- The coefficient on the middle word of register A (R6, R72). -/
def a12 : Nat := 1403580

/-- The coefficient subtracted on the oldest word of register A (R6, R72, R73). -/
def a13n : Nat := 810728

/-- The coefficient on the newest word of register B (R6, R78). -/
def a21 : Nat := 527612

/-- The coefficient subtracted on the oldest word of register B (R6, R78, R73). -/
def a23n : Nat := 1370589

/-- The canonical seed word (R6). -/
def seed0 : Word := 12345#32

end Sys2Proof.Machine
end

