-- ==== Sys2Proof/Machine/State.lean ====
section
/-! DEFINITION. The state of the machine as plain data, the reasons a step can stop, and the state after reset. -/

namespace Sys2Proof.Machine

/-- The six state words (R10): register A is a0, a1, a2 and register B is b0, b1, b2, each oldest word first. -/
structure Words where
  /-- Register A, oldest; `x[0]`. -/
  a0 : Word
  /-- Register A, middle; `x[1]`. -/
  a1 : Word
  /-- Register A, newest; `x[2]`. -/
  a2 : Word
  /-- Register B, oldest; `x[3]`. -/
  b0 : Word
  /-- Register B, middle; `x[4]`. -/
  b1 : Word
  /-- Register B, newest; `x[5]`. -/
  b2 : Word
  deriving DecidableEq, Repr

/-- The canonical seed: all six words 12345 (R9, R66). -/
def canonicalSeed : Words := ⟨seed0, seed0, seed0, seed0, seed0, seed0⟩

/-- The status of a response (R46, R111). -/
inductive Status where
  /-- The operation completed. -/
  | ok
  /-- SEED refused its operand (R112). -/
  | invalidSeed
  /-- The opcode is reserved (R113). -/
  | illegalOp
  deriving DecidableEq, Repr

/-- A response (R46, R49). -/
structure Response where
  status : Status
  data : Word
  deriving DecidableEq, Repr

/-- The command in flight (R22, R142): accepted, not yet completed. Log entry 6. -/
structure InFlight where
  /-- The opcode and, for SEED, the seed operand, as decoded at acceptance. -/
  instr : Instr
  /-- How many edges pass before the completing edge: 0 when the next edge completes the operation. -/
  wait : Nat
  deriving DecidableEq, Repr

/-- One thing the host does at the command port, in the order it does it (R146); with `command` the command word it
offers. A list of them is a program of R58. Log entry 3. -/
inductive HostAction where
  /-- No command is offered: the host leaves a gap (R146). -/
  | idle
  /-- The host asserts reset (R130). -/
  | reset
  /-- The host offers a command; with `SEED_EXT` = 0 only bits 1:0 of the word exist (R47, log entry 17). -/
  | command (cmd : CommandWord)
  deriving DecidableEq, Repr

/-- The state. The engine's own state is `words` (R10: the whole architectural state), and `inFlight` and `rsp` (R22,
R23: the binding's); `seedExt` is the build parameter of R6 and `host` is the host's part, what it does next. -/
structure State where
  /-- The six state words (R10). -/
  words : Words
  /-- `SEED_EXT` of this build (R6). Fixed: no step changes it. Log entry 1. -/
  seedExt : Bool
  /-- The command in flight; `none` when the engine is idle and ready (R22, R142). -/
  inFlight : Option InFlight
  /-- The response presented; `none` when `rsp_valid` = 0, and then `rsp_status` and `rsp_data` have no meaning
  (R143). Log entry 7. -/
  rsp : Option Response
  /-- What the host does next, oldest first (R146). Log entry 3. -/
  host : List HostAction
  deriving DecidableEq, Repr

/-- The faults of the engine: none, so the type has no constructor. A run contains no fault state (R147); an error is
the status of an ordinary response (R110). Log entry 12. -/
inductive Fault
  deriving DecidableEq, Repr

/-- The reasons for which the model gives a command no meaning. -/
inductive Refusal where
  /-- Raised by `exec` in the arm of an instruction that has no meaning yet; safe. No arm raises it. -/
  | notModelled (mnemonic : String)
  deriving DecidableEq, Repr

/-- The state after reset (R23, R130): the canonical seed, no command in flight, no response pending. The host has not
acted yet, and the build is either one (log entries 1, 3 and 8). -/
def State.reset : State :=
  { words := canonicalSeed, seedExt := Config.seedExt, inFlight := none, rsp := none, host := [] }

end Sys2Proof.Machine
end

