-- ==== Sys2Proof/Machine/Flags.lean ====
section
/-! DEFINITION. The predicates of the engine (10_state R19). None is kept after the operation that evaluates it: the
engine has no flags. -/

namespace Sys2Proof.Machine

/-- The truncated remainder is strictly negative, so the one corrective add is made (R75). -/
def needsCorrection (t : Int) : Bool := decide (t < 0)

/-- The output select: `r1 ≤ r2`, an unsigned comparison (R81, R84 item 5). -/
def selectsAdd (r1 r2 : Word) : Bool := decide (r1.toNat ≤ r2.toNat)

/-- Every word is below the modulus of its register (R9, R14). -/
abbrev Words.InRange (x : Words) : Prop :=
  (x.a0.toNat < m1 ∧ x.a1.toNat < m1 ∧ x.a2.toNat < m1) ∧
    (x.b0.toNat < m2 ∧ x.b1.toNat < m2 ∧ x.b2.toNat < m2)

/-- Register A is all zero. -/
abbrev Words.ZeroA (x : Words) : Prop := x.a0 = 0#32 ∧ x.a1 = 0#32 ∧ x.a2 = 0#32

/-- Register B is all zero. -/
abbrev Words.ZeroB (x : Words) : Prop := x.b0 = 0#32 ∧ x.b1 = 0#32 ∧ x.b2 = 0#32

/-- A degenerate state (R9, R15). -/
abbrev Words.Degenerate (x : Words) : Prop := x.ZeroA ∨ x.ZeroB

/-- `valid_seed` (R102), evaluated on the operand alone. -/
def validSeed (x : Words) : Bool := decide (x.InRange ∧ ¬ x.ZeroA ∧ ¬ x.ZeroB)

end Sys2Proof.Machine
end

