-- ==== Sys2Proof/Machine/Datapath.lean ====
section
/-! DEFINITION. The arithmetic of one DRAW (41_draw R71 to R82), in the integers (R84). -/

namespace Sys2Proof.Machine

/-- The quotient of `p` by `m` truncated toward zero (R8). -/
def tdiv (p : Int) (m : Nat) : Int := if 0 ≤ p then p / (m : Int) else -((-p) / (m : Int))

/-- The remainder `t` of the truncated quotient, before the corrective add (R75). -/
def truncRem (p : Int) (m : Nat) : Int := p - tdiv p m * (m : Int)

/-- `reduce(p, m)` (R75): truncated quotient, multiply back, subtract, one corrective add. -/
def reduce (p : Int) (m : Nat) : Int :=
  if needsCorrection (truncRem p m) then truncRem p m + (m : Int) else truncRem p m

/-- The multiply-accumulate of component A: the middle word and the oldest word of register A (R72, C1). -/
def Words.p1 (x : Words) : Int := (a12 : Int) * (x.a1.toNat : Int) - (a13n : Int) * (x.a0.toNat : Int)

/-- The multiply-accumulate of component B: the newest word and the oldest word of register B (R78). -/
def Words.p2 (x : Words) : Int := (a21 : Int) * (x.b2.toNat : Int) - (a23n : Int) * (x.b0.toNat : Int)

/-- The reduced value of component A (R75). -/
def Words.r1 (x : Words) : Word := BitVec.ofInt 32 (reduce x.p1 m1)

/-- The reduced value of component B (R79). -/
def Words.r2 (x : Words) : Word := BitVec.ofInt 32 (reduce x.p2 m2)

/-- The output combine (R81): `r1 - r2`, plus `m1` when `r1 ≤ r2`, as an integer. -/
def combine (r1 r2 : Word) : Int :=
  let d : Int := (r1.toNat : Int) - (r2.toNat : Int)
  if selectsAdd r1 r2 then d + (m1 : Int) else d

/-- The output `z` of a DRAW (R81). -/
def Words.output (x : Words) : Word := BitVec.ofInt 32 (combine x.r1 x.r2)

/-- The state words after a DRAW: both registers shifted, the reduced values in the newest places, all six writes
together (R77, R80, R35). -/
def Words.next (x : Words) : Words :=
  { a0 := x.a1, a1 := x.a2, a2 := x.r1, b0 := x.b1, b1 := x.b2, b2 := x.r2 }

end Sys2Proof.Machine
end

