-- ==== Sys2Proof/Machine/Operands.lean ====
section
/-! DEFINITION. The operands of a command (30_encoding R51) and the fields of a response (R49). There are no
immediates and no addressing modes; the only operand is the seed of SEED. -/

namespace Sys2Proof.Machine

/-- The six seed words as state words, for a0, a1, a2, b0, b1, b2 in that order, taken unsigned with no conversion
(R101, R51). -/
def seedOperand (w0 w1 w2 w3 w4 w5 : Word) : Words := ⟨w0, w1, w2, w3, w4, w5⟩

/-- The code of a status (R49, R111); 2'b11 is never produced. -/
def Status.code : Status → BitVec 2
  | .ok => 0b00#2
  | .invalidSeed => 0b01#2
  | .illegalOp => 0b10#2

/-- The 34 bits of a response: `status` in bits 1:0 and `data` in bits 33:2 (R49). -/
def Response.bits (r : Response) : BitVec 34 := r.data ++ r.status.code

end Sys2Proof.Machine
end

