-- ==== Sys2Proof/Machine/Ops.lean ====
section
/-! DEFINITION. The named operations over the state. The engine has no memory (20_memory R30) and no numbered
registers: the writes are of all six words at once (R35). -/

namespace Sys2Proof.Machine

/-- Write all six state words together (R35). -/
def State.setWords (x : Words) (s : State) : State := { s with words := x }

/-- `respond(status, data)` (R8): the operation ends with this response. -/
def State.respond (st : Status) (d : Word) (s : State) : State := { s with rsp := some ⟨st, d⟩ }

/-- `raise <Status>()` (R110), the engine's one way of taking an error: no state word is written, nothing is saved,
the response is `(<Status>, 0)` and the engine is ready for the next command. There is nothing to return from (R116). -/
def State.raise (st : Status) (s : State) : State := s.respond st 0#32

/-- `rsp_valid` becomes 0 (R143). -/
def State.clearResponse (s : State) : State := { s with rsp := none }

/-- Put a command in flight, or take it out (R142). -/
def State.setInFlight (f : Option InFlight) (s : State) : State := { s with inFlight := f }

/-- Replace what the host does next (log entry 3). -/
def State.setHost (actions : List HostAction) (s : State) : State := { s with host := actions }

/-- Reset (R130, R132, R144): the canonical seed, the command in flight dropped, no response pending. -/
def State.applyReset (s : State) : State :=
  { s with words := canonicalSeed, inFlight := none, rsp := none }

/-- `cmd_ready` (R140, R142): no command is in flight. -/
def State.cmdReady (s : State) : Bool := s.inFlight.isNone

/-- The state with a command word of format CS at the head of what the host does, the engine ready to take it. A port
with a seed operand belongs to a build with `SEED_EXT` = 1 (log entry 4). -/
def State.offer (cmd : CommandWord) (s : State) : State :=
  { s with seedExt := true, inFlight := none, host := .command cmd :: s.host }

end Sys2Proof.Machine
end

