-- ==== Sys2Proof/Machine/Draw.lean ====
section
/-! DEFINITION. The operation DRAW (41_draw). -/

namespace Sys2Proof.Machine

/-- DRAW (R71): both registers advanced one step, response (OK, z), both from the words before the DRAW (R87); it is
defined in every state and never fails (R88). -/
def execDraw (s : State) : Host.Outcome State Fault Refusal :=
  .next ((s.setWords s.words.next).respond .ok s.words.output)

end Sys2Proof.Machine
end

