-- ==== Sys2Proof/Machine/Init.lean ====
section
/-! DEFINITION. The operation INIT (40_init). -/

namespace Sys2Proof.Machine

/-- INIT (R66): the canonical seed in all six words, response (OK, 0); it never fails (R114). -/
def execInit (s : State) : Host.Outcome State Fault Refusal :=
  .next ((s.setWords canonicalSeed).respond .ok 0#32)

end Sys2Proof.Machine
end

