-- ==== Sys2Proof/Machine/Rsvd.lean ====
section
/-! DEFINITION. The reserved commands (30_encoding R53). -/

namespace Sys2Proof.Machine

/-- RSVD 2'b10 (R53): raises ILLEGAL_OP. Log entry 16. -/
def execRsvd10 (s : State) : Host.Outcome State Fault Refusal := .next (s.raise .illegalOp)

/-- RSVD 2'b11 (R53): raises ILLEGAL_OP. -/
def execRsvd11 (s : State) : Host.Outcome State Fault Refusal := .next (s.raise .illegalOp)

end Sys2Proof.Machine
end

