-- ==== Sys2Proof/Machine/Seed.lean ====
section
/-! DEFINITION. The optional operation SEED (42_seed_ext). -/

namespace Sys2Proof.Machine

/-- SEED (R101): a valid seed is loaded into the six words with response (OK, 0); one that is not valid raises
INVALID_SEED. With `SEED_EXT` = 0 there is no SEED and its opcode answers ILLEGAL_OP (R107; log entry 2). -/
def execSeed (w0 w1 w2 w3 w4 w5 : Word) (s : State) : Host.Outcome State Fault Refusal :=
  if s.seedExt then
    if validSeed (seedOperand w0 w1 w2 w3 w4 w5) then
      .next ((s.setWords (seedOperand w0 w1 w2 w3 w4 w5)).respond .ok 0#32)
    else .next (s.raise .invalidSeed)
  else .next (s.raise .illegalOp)

end Sys2Proof.Machine
end

