-- ==== Sys2Proof/Machine/Dispatch.lean ====
section
/-! DEFINITION. One arm per command: the operation it executes. -/

namespace Sys2Proof.Machine

def exec (i : Instr) (s : State) : Host.Outcome State Fault Refusal :=
  match i with
  | .init => Sys2Proof.Machine.execInit s
  | .draw => Sys2Proof.Machine.execDraw s
  | .seed w0 w1 w2 w3 w4 w5 => Sys2Proof.Machine.execSeed w0 w1 w2 w3 w4 w5 s
  | .rsvd10 => Sys2Proof.Machine.execRsvd10 s
  | .rsvd11 => Sys2Proof.Machine.execRsvd11 s

end Sys2Proof.Machine
end

