-- ==== Sys2Proof/Machine/Transaction.lean ====
section
/-! DEFINITION. One transaction of the engine (00_scope R7, 20_memory R36): the host's next action, taken whole. -/

namespace Sys2Proof.Machine

/-- One transaction. Reset overrides everything (R115, R132). A command in flight is completed before the next one is
accepted (R36 item 3; log entry 5). A command the host offers is accepted, decoded and executed as one atomic
operation (R36 item 2). With nothing offered the engine is idle, keeps its words (R124), and `rsp_valid` is 0. -/
def transaction (s : State) : Host.Outcome State Fault Refusal :=
  match s.inFlight, s.host with
  | _, .reset :: rest => .next (s.applyReset.setHost rest)
  | some f, _ => exec f.instr (s.setInFlight none)
  | none, .command cmd :: rest => exec (decode s.seedExt cmd) (s.setHost rest)
  | none, .idle :: rest => .next (s.clearResponse.setHost rest)
  | none, [] => .next s.clearResponse

end Sys2Proof.Machine
end

