-- ==== Sys2Proof/Machine/Step.lean ====
section
/-! DEFINITION. The step of the machine: one transaction; and how a table word is put before it. -/

namespace Sys2Proof.Machine

/-- One step: one transaction (R7, R46). -/
def step (s : State) : Host.Outcome State Fault Refusal := transaction s

/-- `s` with the table word, its bits above `nbits` 0, as the next command the host offers (log entry 4). -/
def State.withFetchWord (s : State) (nbits w : Nat) : State := s.offer (BitVec.ofNat 194 (w % 2 ^ nbits))

end Sys2Proof.Machine
end

