-- ==== Sys2Proof/Machine/Binding.lean ====
section
/-! DEFINITION. The signal-level binding (70_reset_and_hazards R140 to R144): one rising edge of the clock, over the
same state as the transaction. -/

namespace Sys2Proof.Machine

/-- The input ports sampled at an edge (R140); `cmd_seed` exists only when `SEED_EXT` = 1. -/
structure InputPins where
  rst : Bool
  cmdValid : Bool
  cmdOp : Opcode
  cmdSeed : SeedBits
  deriving DecidableEq, Repr

/-- The output ports in the cycle after an edge (R140). -/
structure OutputPins where
  cmdReady : Bool
  rspValid : Bool
  rspStatus : BitVec 2
  rspData : Word
  deriving DecidableEq, Repr

/-- What the output ports carry. `idleStatus` and `idleData` are what `rsp_status` and `rsp_data` carry while
`rsp_valid` = 0: free values, any value (R143, HW6; log entry 7). -/
def State.outputs (idleStatus : BitVec 2) (idleData : Word) (s : State) : OutputPins :=
  match s.rsp with
  | some r => { cmdReady := s.cmdReady, rspValid := true, rspStatus := r.status.code, rspData := r.data }
  | none => { cmdReady := s.cmdReady, rspValid := false, rspStatus := idleStatus, rspData := idleData }

/-- A command is accepted at an edge at which `rst` = 0, `cmd_valid` = 1 and `cmd_ready` = 1 (R141). -/
def accepts (pins : InputPins) (s : State) : Bool := !pins.rst && pins.cmdValid && s.cmdReady

/-- The command that the pins carry (R140, R47). -/
def InputPins.command (seedExt : Bool) (pins : InputPins) : Instr := decode seedExt (commandWord pins.cmdOp pins.cmdSeed)

/-- The operation `i` accepted with `extra` = `LAT(op) - 1`: it completes at the accepting edge itself when the latency
is 1 (R143), and else is held in flight with the words as they were (R142). -/
def accept (extra : Nat) (i : Instr) (s : State) : Host.Outcome State Fault Refusal :=
  match extra with
  | 0 => exec i s
  | n + 1 => .next (s.clearResponse.setInFlight (some ⟨i, n⟩))

/-- One edge of the busy engine: the completing edge executes the operation (R143), an earlier one leaves the words as
they were (R142). -/
def busyEdge (f : InFlight) (s : State) : Host.Outcome State Fault Refusal :=
  match f.wait with
  | 0 => exec f.instr (s.setInFlight none)
  | n + 1 => .next (s.clearResponse.setInFlight (some ⟨f.instr, n⟩))

/-- One rising edge of `clk` (R140). `extra` is `LAT(op) - 1` for a command accepted at this edge (R137, D14: open, and
it may vary from one command to the next; log entry 6). -/
def clockEdge (extra : Nat) (pins : InputPins) (s : State) : Host.Outcome State Fault Refusal :=
  if pins.rst then .next s.applyReset
  else
    match s.inFlight with
    | some f => busyEdge f s
    | none => if accepts pins s then accept extra (pins.command s.seedExt) s else .next s.clearResponse

/-- One edge of a run: the pins, and the latency of the command accepted at it. -/
structure Edge where
  pins : InputPins
  extra : Nat
  deriving DecidableEq, Repr

/-- A run of edges. -/
def runEdges : List Edge → State → Host.Outcome State Fault Refusal
  | [], s => .next s
  | e :: es, s =>
    match clockEdge e.extra e.pins s with
    | .next t => runEdges es t
    | .fault r => .fault r
    | .refused r => .refused r

/-- The responses that the `rsp_valid` pulses of a run carry, in order (R143, R145). -/
def pulses : List Edge → State → List Response
  | [], _ => []
  | e :: es, s =>
    match clockEdge e.extra e.pins s with
    | .next t => t.rsp.toList ++ pulses es t
    | .fault _ => []
    | .refused _ => []

/-- The commands accepted in a run, in order (R141). -/
def acceptedCommands : List Edge → State → List Instr
  | [], _ => []
  | e :: es, s =>
    match clockEdge e.extra e.pins s with
    | .next t =>
      if accepts e.pins s then e.pins.command s.seedExt :: acceptedCommands es t else acceptedCommands es t
    | .fault _ => []
    | .refused _ => []

end Sys2Proof.Machine
end

