-- ==== Sys2Proof/Machine/Instances.lean ====
section
/-! DEFINITION. Several instances side by side (10_state R24, 60_exceptions R122): each has its own state and they
share nothing. -/

namespace Sys2Proof.Machine

/-- One step of the instance at place `k`; the others do not move. -/
def stepAt (k : Nat) (states : List State) : Host.Outcome (List State) Fault Refusal :=
  match states[k]? with
  | none => .next states
  | some s =>
    match step s with
    | .next t => .next (states.set k t)
    | .fault r => .fault r
    | .refused r => .refused r

end Sys2Proof.Machine
end

