-- ==== Sys2Proof/Safety.lean ====
section
/-! DEFINITION. The terms the statements are made in: the abstract transaction machine of 30_encoding R46 and its
runs, and the invariant of the reachable states (10_state R14, R15). -/

namespace Sys2Proof.Machine

/-- `step : State × Command → State × Response` of R46 on the six words, as the table of R50 gives it. -/
def mealy (seedExt : Bool) (x : Words) : Instr → Words × Response
  | .init => (canonicalSeed, ⟨.ok, 0#32⟩)
  | .draw => (x.next, ⟨.ok, x.output⟩)
  | .seed w0 w1 w2 w3 w4 w5 =>
    if seedExt then
      if validSeed (seedOperand w0 w1 w2 w3 w4 w5) then (seedOperand w0 w1 w2 w3 w4 w5, ⟨.ok, 0#32⟩)
      else (x, ⟨.invalidSeed, 0#32⟩)
    else (x, ⟨.illegalOp, 0#32⟩)
  | .rsvd10 => (x, ⟨.illegalOp, 0#32⟩)
  | .rsvd11 => (x, ⟨.illegalOp, 0#32⟩)

/-- The words after a sequence of commands and the responses to them, in order (R36, R145). -/
def mealyRun (seedExt : Bool) : List Instr → Words → Words × List Response
  | [], x => (x, [])
  | i :: is, x =>
    let y := mealy seedExt x i
    let z := mealyRun seedExt is y.1
    (z.1, y.2 :: z.2)

/-- The words after the host's actions and the responses to them, in order: a reset starts again from the canonical
seed and has no response (R130, R146), a gap does nothing. -/
def hostRun (seedExt : Bool) : List HostAction → Words → Words × List Response
  | [], x => (x, [])
  | .idle :: as, x => hostRun seedExt as x
  | .reset :: as, _ => hostRun seedExt as canonicalSeed
  | .command cmd :: as, x =>
    let y := mealy seedExt x (decode seedExt cmd)
    let z := hostRun seedExt as y.1
    (z.1, y.2 :: z.2)

/-- The responses of `k` steps, in order. -/
def stepReplies : Nat → State → List Response
  | 0, _ => []
  | k + 1, s =>
    match step s with
    | .next t => t.rsp.toList ++ stepReplies k t
    | .fault _ => []
    | .refused _ => []

/-- The invariant of the reachable states: the six words are in range (R14) and not degenerate (R15), and a command
in flight is one that the build has (R46). -/
abbrev State.Inv (s : State) : Prop :=
  s.words.InRange ∧ ¬ s.words.Degenerate ∧ ∀ f ∈ s.inFlight, WellFormed s.seedExt f.instr = true

end Sys2Proof.Machine
end

