-- ==== Sys2Proof/Certificates/Slice0/Obligations.lean ====
section
/-! DEFINITION. The statements for the provers. Each docstring names the rule of spec/ that the statement formalises;
constants are written as the numbers of the spec, not as the model's names for them. -/

open Sys2Proof Sys2Proof.Machine

/-! ### Encoding (30_encoding) -/

/-- Command words written out from the spec's encodings decode to the commands they stand for (V29, R59). -/
def Obligations.WrittenOutCommandWordsDecode : Prop :=
  decodeC0 0b00#2 = .init ∧ decodeC0 0b01#2 = .draw ∧ decodeC0 0b10#2 = .rsvd10 ∧ decodeC0 0b11#2 = .rsvd11 ∧
  decode true 0x3FFFFFFFFFFFFFFFFFFFFFFFFFFFFFFFFFFFFFFFFFFFFFFFD#194 = .draw ∧
  decode true 0x0000000000000000400000000000000040000000000000002#194 = .seed 0 0 1 0 1 0 ∧
  decode true 0x3FFFFFCB80000000400000004000000040000000400000006#194 = .seed 1 1 1 1 1 4294967086 ∧
  decode true 0x0000000000000000000000000000000000000000000000003#194 = .rsvd11

/-- Decoding the word of a command of the build gives the command back, every operand at every value (R59). -/
def Obligations.DecodeOfEncodeIsTheCommand : Prop :=
  ∀ (seedExt : Bool) (i : Instr), WellFormed seedExt i = true → decode seedExt (encode i) = i

/-- R47: the lengths of the two formats and the place of every field, in a command word and on the port
`cmd_seed`. R33 gives the same order of the seed words. -/
def Obligations.CommandFieldsStandWhereTheFormatPutsThem : Prop :=
  (commandLength false = 2 ∧ commandLength true = 194) ∧
  (∀ cmd : CommandWord, (opField cmd).toNat = cmd.toNat % 4) ∧
  (∀ (cmd : CommandWord) (i : Nat), i < 6 → (seedField cmd i).toNat = cmd.toNat / 2 ^ (32 * i + 2) % 2 ^ 32) ∧
  (∀ (op : Opcode) (seed : SeedBits),
    opField (commandWord op seed) = op ∧ (commandWord op seed).toNat = 4 * seed.toNat + op.toNat ∧
    ∀ i < 6, (seedField (commandWord op seed) i).toNat = seed.toNat / 2 ^ (32 * i) % 2 ^ 32) ∧
  (∀ cmd : CommandWord, opField cmd = 0b10#2 →
    decode true cmd = .seed (seedField cmd 0) (seedField cmd 1) (seedField cmd 2)
      (seedField cmd 3) (seedField cmd 4) (seedField cmd 5)) ∧
  (∀ w0 w1 w2 w3 w4 w5 : Word,
    (encode (.seed w0 w1 w2 w3 w4 w5)).toNat =
      2 + 2 ^ 2 * w0.toNat + 2 ^ 34 * w1.toNat + 2 ^ 66 * w2.toNat + 2 ^ 98 * w3.toNat + 2 ^ 130 * w4.toNat +
        2 ^ 162 * w5.toNat)

/-- R48: the opcode map, for both builds. -/
def Obligations.OpcodeSelectsTheOperation : Prop :=
  ∀ (seedExt : Bool) (cmd : CommandWord),
    (opField cmd = 0b00#2 → decode seedExt cmd = .init) ∧
    (opField cmd = 0b01#2 → decode seedExt cmd = .draw) ∧
    (opField cmd = 0b10#2 → seedExt = false → decode seedExt cmd = .rsvd10) ∧
    (opField cmd = 0b10#2 → seedExt = true → ∃ w0 w1 w2 w3 w4 w5, decode seedExt cmd = .seed w0 w1 w2 w3 w4 w5) ∧
    (opField cmd = 0b11#2 → decode seedExt cmd = .rsvd11)

/-- R52: with `SEED_EXT` = 1, any bit pattern in the seed fields of a command that is not SEED gives the same
operation, and the engine that samples it the same next state and the same response. -/
def Obligations.IgnoredSeedFieldsHaveNoEffect : Prop :=
  (∀ cmd cmd' : CommandWord, opField cmd = opField cmd' → opField cmd ≠ 0b10#2 →
    decode true cmd = decode true cmd') ∧
  (∀ (extra : Nat) (pins : InputPins) (seed : SeedBits) (s : State), s.seedExt = true → pins.cmdOp ≠ 0b10#2 →
    clockEdge extra { pins with cmdSeed := seed } s = clockEdge extra pins s)

/-- R54, R59: every command word decodes to a command of the build, and every command of the build is decoded from
some command word. -/
def Obligations.DecodedCommandsAreThoseOfTheBuild : Prop :=
  ∀ (seedExt : Bool) (i : Instr), WellFormed seedExt i = true ↔ ∃ cmd : CommandWord, decode seedExt cmd = i

/-- The model's way to put a table word before the machine (log entry 4, DESIGN CHOICE): the next step executes the
command that the decoder reads from it. -/
def Obligations.PlacedTableWordIsExecuted : Prop :=
  ∀ (s : State) (nbits w : Nat) (i : Instr), decodeTableWord nbits w = some i →
    step (s.withFetchWord nbits w) = exec i { s with seedExt := true, inFlight := none }

/-! ### The step (R36, R46) -/

/-- A step of the idle engine, when the host offers a command, is the decoded command executed whole, with the command
taken from what the host does next (R36; the list of host actions is the model's, log entry 3). -/
def Obligations.StepRunsTheDecodedCommand : Prop :=
  ∀ (s : State) (cmd : CommandWord) (rest : List HostAction),
    s.inFlight = none → s.host = .command cmd :: rest →
      step s = exec (decode s.seedExt cmd) { s with host := rest }

/-- What else a step does: a gap leaves all but the response; a command in flight is completed before anything new is
accepted (log entries 3 and 5, DESIGN CHOICE). -/
def Obligations.StepWithoutANewCommand : Prop :=
  (∀ (s : State) (rest : List HostAction), s.inFlight = none → s.host = .idle :: rest →
    step s = .next { s with host := rest, rsp := none }) ∧
  (∀ s : State, s.inFlight = none → s.host = [] → step s = .next { s with rsp := none }) ∧
  (∀ (s : State) (f : InFlight), s.inFlight = some f → (∀ rest, s.host ≠ .reset :: rest) →
    step s = exec f.instr { s with inFlight := none })

/-- Every command in every state has one next state and one response, and touches nothing else. For a command of the
build these are the ones of the table of R50 (R46). For a command that the build does not have they are the model's
choice and no rule of the spec: SEED with `SEED_EXT` = 0 is log entry 2 (DEDUCED), RSVD 2'b10 with `SEED_EXT` = 1 is log
entry 16 (DESIGN CHOICE). -/
def Obligations.EveryCommandAnswersAsTheTableSays : Prop :=
  ∀ (i : Instr) (s : State),
    exec i s = .next { s with words := (mealy s.seedExt s.words i).1, rsp := some (mealy s.seedExt s.words i).2 }

/-- No step and no clock edge stops the engine (R46, R147). -/
def Obligations.TheEngineNeverStops : Prop :=
  (∀ s : State, ∃ t, step s = .next t) ∧
  (∀ (extra : Nat) (pins : InputPins) (s : State), ∃ t, clockEdge extra pins s = .next t)

/-! ### INIT (40_init) -/

/-- R66: INIT, its encoding, its response and the state after it, in every state. -/
def Obligations.InitLoadsTheCanonicalSeed : Prop :=
  (∀ (seedExt : Bool) (cmd : CommandWord), opField cmd = 0b00#2 → decode seedExt cmd = .init) ∧
  (∀ s : State, exec .init s =
    .next { s with words := ⟨12345, 12345, 12345, 12345, 12345, 12345⟩, rsp := some ⟨.ok, 0x00000000⟩ })

/-- R67: INIT forgets the state before it, is idempotent, leaves the words of reset, in range and not degenerate, and
starts one fixed sequence of responses, the one that follows reset. -/
def Obligations.InitRestartsTheSequence : Prop :=
  (∀ s : State, ∃ t, exec .init s = .next t ∧ exec .init t = .next t ∧ t.words = State.reset.words ∧
    t.words.InRange ∧ ¬ t.words.Degenerate) ∧
  (∀ s s' : State, ∃ t t', exec .init s = .next t ∧ exec .init s' = .next t' ∧ t.words = t'.words) ∧
  (∀ (seedExt : Bool) (is : List Instr) (x : Words),
    mealyRun seedExt (.init :: is) x =
      ((mealyRun seedExt is State.reset.words).1, ⟨.ok, 0⟩ :: (mealyRun seedExt is State.reset.words).2))

/-! ### DRAW (41_draw) -/

/-- R71, R77, R79, R80, R81: DRAW in every state, with the truncating quotient of Lean's integers for `tdiv`, and its
example. -/
def Obligations.DrawFollowsTheProcedure : Prop :=
  (∀ (seedExt : Bool) (cmd : CommandWord), opField cmd = 0b01#2 → decode seedExt cmd = .draw) ∧
  (∀ s : State,
    let x := s.words
    let p1 : Int := 1403580 * x.a1.toNat - 810728 * x.a0.toNat
    let t1 : Int := p1 - p1.tdiv 4294967087 * 4294967087
    let p2 : Int := 527612 * x.b2.toNat - 1370589 * x.b0.toNat
    let t2 : Int := p2 - p2.tdiv 4294944443 * 4294944443
    ∃ r1 r2 z : Word,
      (r1.toNat : Int) = (if t1 < 0 then t1 + 4294967087 else t1) ∧
      (r2.toNat : Int) = (if t2 < 0 then t2 + 4294944443 else t2) ∧
      (z.toNat : Int) =
        (if r1.toNat ≤ r2.toNat then (r1.toNat : Int) - r2.toNat + 4294967087 else (r1.toNat : Int) - r2.toNat) ∧
      (r1.toNat < 4294967087 ∧ r2.toNat < 4294944443 ∧ 1 ≤ z.toNat ∧ z.toNat ≤ 4294967087) ∧
      exec .draw s =
        .next { s with words := ⟨x.a1, x.a2, r1, x.b1, x.b2, r2⟩, rsp := some ⟨.ok, z⟩ }) ∧
  (∀ s : State, s.words = ⟨12345, 12345, 12345, 12345, 12345, 12345⟩ →
    exec .draw s =
      .next { s with words := ⟨12345, 12345, 3023790853, 12345, 12345, 2478282264⟩, rsp := some ⟨.ok, 545508589⟩ })

/-- R90: the first DRAW from the canonical seed, every intermediate. -/
def Obligations.FirstDrawWorkedThrough : Prop :=
  canonicalSeed = ⟨12345, 12345, 12345, 12345, 12345, 12345⟩ ∧
  canonicalSeed.p1 = 7318757940 ∧ tdiv canonicalSeed.p1 m1 = 1 ∧ truncRem canonicalSeed.p1 m1 = 3023790853 ∧
  canonicalSeed.r1 = 0xB43B6305 ∧
  canonicalSeed.p2 = -10406551065 ∧ tdiv canonicalSeed.p2 m2 = -2 ∧ truncRem canonicalSeed.p2 m2 = -1816662179 ∧
  canonicalSeed.r2 = 0x93B79618 ∧ canonicalSeed.output = 0x2083CCED ∧
  canonicalSeed.next = ⟨12345, 12345, 3023790853, 12345, 12345, 2478282264⟩ ∧
  ∀ s : State, s.words = canonicalSeed →
    exec .draw s = .next { s with words := canonicalSeed.next, rsp := some ⟨.ok, 0x2083CCED⟩ }

/-- R8, R84 item 3: `tdiv` is Lean's quotient truncated toward zero, is odd in the dividend and is 0 at 0. -/
def Obligations.QuotientTruncatesTowardZero : Prop :=
  ∀ (p : Int) (m : Nat), 0 < m →
    tdiv p m = p.tdiv m ∧ tdiv p m = -tdiv (-p) m ∧ tdiv 0 m = 0 ∧
    (0 ≤ p → tdiv p m = p / m) ∧ (p < 0 → tdiv p m = -((-p) / m))

/-- R75: the reduction procedure. `t` is smaller than `m` in size and is 0 or has the sign of `p`; the one corrective
add is made exactly when `p` is negative and no multiple of `m`; a multiple of `m` reduces to 0. -/
def Obligations.ReductionMakesOneCorrectiveAdd : Prop :=
  ∀ (p : Int) (m : Nat), 0 < m →
    let t := p - tdiv p m * m
    tdiv p m = (if 0 ≤ p then p / m else -((-p) / m)) ∧
    (-(m : Int) < t ∧ t < m) ∧ (t = 0 ∨ (0 < t ∧ 0 < p) ∨ (t < 0 ∧ p < 0)) ∧
    reduce p m = (if t < 0 then t + m else t) ∧
    (t < 0 ↔ p < 0 ∧ ¬ (m : Int) ∣ p) ∧
    ((m : Int) ∣ p → reduce p m = 0)

/-- R76: the reduced value is the non-negative residue, and the truncated quotient differs from the floored one exactly
when `p` is negative and no multiple of `m`, by one. -/
def Obligations.ReducedValueIsTheResidue : Prop :=
  ∀ (p : Int) (m : Nat), 0 < m →
    reduce p m = p % m ∧ 0 ≤ reduce p m ∧ reduce p m < m ∧ (m : Int) ∣ p - reduce p m ∧
    (∀ r : Int, 0 ≤ r → r < m → (m : Int) ∣ p - r → r = reduce p m) ∧
    (p < 0 → ¬ (m : Int) ∣ p → tdiv p m = Int.fdiv p m + 1) ∧
    ((0 ≤ p ∨ (m : Int) ∣ p) → tdiv p m = Int.fdiv p m)

/-- R74, R76, R82: the words written by a DRAW are the residues of the integers `p1` and `p2`, with no loss in the
32 bits. -/
def Obligations.DrawnWordsAreTheResidues : Prop :=
  ∀ x : Words,
    (x.next.a2.toNat : Int) = (1403580 * x.a1.toNat - 810728 * x.a0.toNat) % 4294967087 ∧
    (x.next.b2.toNat : Int) = (527612 * x.b2.toNat - 1370589 * x.b0.toNat) % 4294944443 ∧
    (x.output.toNat : Int) = combine x.next.a2 x.next.b2 ∧
    ((x.output.toNat : Int) - (x.next.a2.toNat - x.next.b2.toNat)) % 4294967087 = 0

/-- R83: bounds of every intermediate, first for arbitrary 32-bit words, then for words in range; all of them fit a
signed datapath of 54 bits. -/
def Obligations.DrawIntermediatesAreBounded : Prop :=
  (∀ x : Words,
    let k1 := tdiv x.p1 m1
    let t1 := truncRem x.p1 m1
    let k2 := tdiv x.p2 m2
    let t2 := truncRem x.p2 m2
    let d : Int := (x.r1.toNat : Int) - x.r2.toNat
    (1403580 * (x.a1.toNat : Int) ∈ Set.Icc 0 6028330195916100) ∧
    (810728 * (x.a0.toNat : Int) ∈ Set.Icc 0 3482050245140760) ∧
    (x.p1 ∈ Set.Icc (-3482050245140760) 6028330195916100) ∧
    (k1 ∈ Set.Icc (-810728) 1403580) ∧
    ((0 ≤ x.p1 → 0 ≤ k1 * 4294967087) ∧ (x.p1 ≤ 0 → k1 * 4294967087 ≤ 0) ∧ |k1 * 4294967087| ≤ |x.p1|) ∧
    (t1 ∈ Set.Ioo (-4294967087) 4294967087) ∧
    (x.r1.toNat ≤ 4294967086) ∧
    (527612 * (x.b2.toNat : Int) ∈ Set.Icc 0 2266076284449540) ∧
    (1370589 * (x.b0.toNat : Int) ∈ Set.Icc 0 5886634929886755) ∧
    (x.p2 ∈ Set.Icc (-5886634929886755) 2266076284449540) ∧
    (k2 ∈ Set.Icc (-1370596) 527614) ∧
    (t2 ∈ Set.Ioo (-4294944443) 4294944443) ∧
    (x.r2.toNat ≤ 4294944442) ∧
    (d ∈ Set.Icc (-4294944442) 4294967086) ∧
    (x.output.toNat ∈ Set.Icc 1 4294967087) ∧
    (∀ v ∈ [1403580 * (x.a1.toNat : Int), 810728 * (x.a0.toNat : Int), x.p1, k1, k1 * m1, t1,
        527612 * (x.b2.toNat : Int), 1370589 * (x.b0.toNat : Int), x.p2, k2, k2 * m2, t2, d],
      -2 ^ 53 ≤ v ∧ v < 2 ^ 53)) ∧
  (∀ x : Words, x.InRange →
    (1403580 * (x.a1.toNat : Int) ∈ Set.Icc 0 6028329902567880) ∧
    (810728 * (x.a0.toNat : Int) ∈ Set.Icc 0 3482050075698608) ∧
    (x.p1 ∈ Set.Icc (-3482050075698608) 6028329902567880) ∧
    (tdiv x.p1 m1 ∈ Set.Icc (-810727) 1403579) ∧
    (527612 * (x.b2.toNat : Int) ∈ Set.Icc 0 2266064226932504) ∧
    (1370589 * (x.b0.toNat : Int) ∈ Set.Icc 0 5886603607816338) ∧
    (x.p2 ∈ Set.Icc (-5886603607816338) 2266064226932504) ∧
    (tdiv x.p2 m2 ∈ Set.Icc (-1370588) 527611))

/-- R82: the output is in [1, m1], both ends attained; it is m1 exactly when the reduced values are equal; the bounds
of the two branches. -/
def Obligations.DrawOutputRange : Prop :=
  (∀ x : Words,
    1 ≤ x.output.toNat ∧ x.output.toNat ≤ 4294967087 ∧
    (x.output.toNat = 4294967087 ↔ x.r1 = x.r2) ∧
    (x.r2.toNat < x.r1.toNat → x.output.toNat ≤ 4294967086) ∧
    (x.r1.toNat ≤ x.r2.toNat → 22645 ≤ x.output.toNat)) ∧
  (∃ x : Words, x.output.toNat = 1) ∧ (∃ x : Words, x.output.toNat = 4294967087)

/-- R12: `a2` and `b1` do not enter the arithmetic of the DRAW that moves them. -/
def Obligations.DrawOnlyMovesNewestAAndMiddleB : Prop :=
  ∀ (x : Words) (v w : Word),
    let y : Words := { x with a2 := v, b1 := w }
    y.output = x.output ∧ y.next = { x.next with a1 := v, b0 := w }

/-- R86 item 6: on words in range, no two states have the same next state. -/
def Obligations.DrawIsInjectiveInRange : Prop :=
  ∀ x y : Words, x.InRange → y.InRange → x.next = y.next → x = y

/-! ### Invariants (10_state) -/

/-- R14: the state range invariant, all five items; item 4 for both builds and any sequence of commands. -/
def Obligations.WordsStayInRange : Prop :=
  canonicalSeed.InRange ∧
  (∀ x : Words, x.InRange → x.next.InRange) ∧
  (∀ (s t : State) (w0 w1 w2 w3 w4 w5 : Word), exec (.seed w0 w1 w2 w3 w4 w5) s = .next t →
    t.rsp = some ⟨.ok, 0⟩ → t.words.InRange) ∧
  (∀ (seedExt : Bool) (is : List Instr), (mealyRun seedExt is canonicalSeed).1.InRange) ∧
  (∀ x : Words,
    (x.next.a2.toNat < 4294967087 ∧ x.next.b2.toNat < 4294944443) ∧
    (x.next.next.a1.toNat < 4294967087 ∧ x.next.next.a2.toNat < 4294967087 ∧
      x.next.next.b1.toNat < 4294944443 ∧ x.next.next.b2.toNat < 4294944443) ∧
    x.next.next.next.InRange)

/-- R15: the non-degeneracy invariant. An all-zero register is a fixed point of its component; one that is in range and
not all zero never becomes all zero; so no state reached from the canonical seed or from an accepted SEED is
degenerate. -/
def Obligations.WordsNeverDegenerate : Prop :=
  (∀ x : Words, x.ZeroA → x.p1 = 0 ∧ x.r1 = 0 ∧ x.next.ZeroA) ∧
  (∀ x : Words, x.ZeroB → x.p2 = 0 ∧ x.r2 = 0 ∧ x.next.ZeroB) ∧
  (∀ x : Words, x.a0.toNat < 4294967087 → x.a1.toNat < 4294967087 → x.a2.toNat < 4294967087 →
    ¬ x.ZeroA → ¬ x.next.ZeroA) ∧
  (∀ x : Words, x.b0.toNat < 4294944443 → x.b1.toNat < 4294944443 → x.b2.toNat < 4294944443 →
    ¬ x.ZeroB → ¬ x.next.ZeroB) ∧
  (∀ (seedExt : Bool) (is : List Instr), ¬ (mealyRun seedExt is canonicalSeed).1.Degenerate) ∧
  (∀ (seedExt : Bool) (is : List Instr) (x : Words), validSeed x = true → ¬ (mealyRun seedExt is x).1.Degenerate)

/-- R16: a degenerate state is no fault: DRAW is defined on it and leaves it degenerate. No command makes one from a
state in range that is not degenerate, and a SEED whose operand is degenerate is refused. -/
def Obligations.DegenerateStateIsNoFault : Prop :=
  (∀ s : State, s.words.Degenerate →
    exec .draw s = .next { s with words := s.words.next, rsp := some ⟨.ok, s.words.output⟩ } ∧
    s.words.next.Degenerate) ∧
  (∀ (i : Instr) (s t : State), s.words.InRange → ¬ s.words.Degenerate → exec i s = .next t → ¬ t.words.Degenerate) ∧
  (∀ (w0 w1 w2 w3 w4 w5 : Word) (s : State), s.seedExt = true →
    ((w0 = 0 ∧ w1 = 0 ∧ w2 = 0) ∨ (w3 = 0 ∧ w4 = 0 ∧ w5 = 0)) →
    exec (.seed w0 w1 w2 w3 w4 w5) s = .next { s with rsp := some ⟨.invalidSeed, 0⟩ })

/-- The invariant holds right after reset. -/
def Obligations.ResetMeetsTheInvariant : Prop := State.reset.Inv

/-- Every step from a state that meets the invariant ends in one that meets it (R14 item 4, R15 item 3). -/
def Obligations.StepKeepsTheInvariant : Prop := ∀ s t : State, s.Inv → step s = .next t → t.Inv

/-- Every clock edge keeps the invariant, whatever the pins and the latency. -/
def Obligations.ClockEdgeKeepsTheInvariant : Prop :=
  ∀ (extra : Nat) (pins : InputPins) (s t : State), s.Inv → clockEdge extra pins s = .next t → t.Inv

/-! ### SEED (42_seed_ext) -/

/-- R101, R102: with `SEED_EXT` = 1, opcode 2'b10 is SEED with the words of its fields; a valid seed is loaded with
response (OK, 0), any other is refused with (INVALID_SEED, 0) and no state word written, whatever the state; and the
example, with the DRAW after it. -/
def Obligations.SeedLoadsOrRefuses : Prop :=
  (∀ cmd : CommandWord, opField cmd = 0b10#2 →
    decode true cmd = .seed (seedField cmd 0) (seedField cmd 1) (seedField cmd 2)
      (seedField cmd 3) (seedField cmd 4) (seedField cmd 5)) ∧
  (∀ (s : State) (w0 w1 w2 w3 w4 w5 : Word), s.seedExt = true →
    exec (.seed w0 w1 w2 w3 w4 w5) s =
      if (w0.toNat < 4294967087 ∧ w1.toNat < 4294967087 ∧ w2.toNat < 4294967087) ∧
          (w3.toNat < 4294944443 ∧ w4.toNat < 4294944443 ∧ w5.toNat < 4294944443) ∧
          ¬ (w0 = 0 ∧ w1 = 0 ∧ w2 = 0) ∧ ¬ (w3 = 0 ∧ w4 = 0 ∧ w5 = 0) then
        .next { s with words := ⟨w0, w1, w2, w3, w4, w5⟩, rsp := some ⟨.ok, 0x00000000⟩ }
      else .next { s with rsp := some ⟨.invalidSeed, 0x00000000⟩ }) ∧
  (∀ s : State, s.seedExt = true → ∃ t u, exec (.seed 1 2 3 4 5 6) s = .next t ∧ exec .draw t = .next u ∧
    t.words = ⟨1, 2, 3, 4, 5, 6⟩ ∧ t.rsp = some ⟨.ok, 0⟩ ∧
    u.words = ⟨2, 3, 1996432, 5, 6, 4292627759⟩ ∧ u.rsp = some ⟨.ok, 4335760⟩)

/-- SEED completes: with `SEED_EXT` = 1 a seed that meets the eight clauses of R102 is loaded, whatever the state. -/
def Obligations.ValidSeedIsLoaded : Prop :=
  ∀ (s : State) (w0 w1 w2 w3 w4 w5 : Word), s.seedExt = true →
    (w0.toNat < 4294967087 ∧ w1.toNat < 4294967087 ∧ w2.toNat < 4294967087) →
    (w3.toNat < 4294944443 ∧ w4.toNat < 4294944443 ∧ w5.toNat < 4294944443) →
    ¬ (w0 = 0 ∧ w1 = 0 ∧ w2 = 0) → ¬ (w3 = 0 ∧ w4 = 0 ∧ w5 = 0) →
      exec (.seed w0 w1 w2 w3 w4 w5) s =
        .next { s with words := ⟨w0, w1, w2, w3, w4, w5⟩, rsp := some ⟨.ok, 0x00000000⟩ }

/-- R103: with `SEED_EXT` = 1 a seed that breaks any of the eight clauses gets the one answer INVALID_SEED and
changes nothing else. -/
def Obligations.SeedNotValidIsRefused : Prop :=
  ∀ (s : State) (w0 w1 w2 w3 w4 w5 : Word), s.seedExt = true →
    (4294967087 ≤ w0.toNat ∨ 4294967087 ≤ w1.toNat ∨ 4294967087 ≤ w2.toNat ∨
      4294944443 ≤ w3.toNat ∨ 4294944443 ≤ w4.toNat ∨ 4294944443 ≤ w5.toNat ∨
      (w0 = 0 ∧ w1 = 0 ∧ w2 = 0) ∨ (w3 = 0 ∧ w4 = 0 ∧ w5 = 0)) →
      exec (.seed w0 w1 w2 w3 w4 w5) s = .next { s with rsp := some ⟨.invalidSeed, 0x00000000⟩ }

/-- R102: the validity predicate, as the spec writes it. -/
def Obligations.ValidSeedPredicate : Prop :=
  ∀ w0 w1 w2 w3 w4 w5 : Word,
    validSeed (seedOperand w0 w1 w2 w3 w4 w5) = true ↔
      (w0.toNat < 4294967087 ∧ w1.toNat < 4294967087 ∧ w2.toNat < 4294967087) ∧
      (w3.toNat < 4294944443 ∧ w4.toNat < 4294944443 ∧ w5.toNat < 4294944443) ∧
      ¬ (w0 = 0 ∧ w1 = 0 ∧ w2 = 0) ∧ ¬ (w3 = 0 ∧ w4 = 0 ∧ w5 = 0)

/-- R104 items 1 to 3: SEED of the canonical seed is INIT; after a successful SEED the words are in range and not
degenerate; a refused one changes no word but has an error status. -/
def Obligations.SeedSucceedsIntoTheInvariantOrKeepsTheWords : Prop :=
  ∀ s : State, s.seedExt = true →
    exec (.seed 12345 12345 12345 12345 12345 12345) s = exec .init s ∧
    ∀ w0 w1 w2 w3 w4 w5 : Word, ∃ t, exec (.seed w0 w1 w2 w3 w4 w5) s = .next t ∧
      ((t.rsp = some ⟨.ok, 0⟩ ∧ t.words.InRange ∧ ¬ t.words.Degenerate) ∨
        (t.rsp = some ⟨.invalidSeed, 0⟩ ∧ t.words = s.words))

/-- R107: with `SEED_EXT` = 0 the command is the two bits `op`, there is no SEED, opcode 2'b10 is reserved and answers ILLEGAL_OP with the words unchanged, INVALID_SEED is
never produced, and the engine reaches only the states that DRAWs reach from the canonical seed. -/
def Obligations.WithoutSeedExtOnlyDrawsMoveTheWords : Prop :=
  commandLength false = 2 ∧
  (∀ cmd cmd' : CommandWord, opField cmd = opField cmd' → decode false cmd = decode false cmd') ∧
  (∀ (cmd : CommandWord) (w0 w1 w2 w3 w4 w5 : Word), decode false cmd ≠ .seed w0 w1 w2 w3 w4 w5) ∧
  (∀ (s : State) (cmd : CommandWord), s.seedExt = false → opField cmd = 0b10#2 →
    exec (decode s.seedExt cmd) s = .next { s with rsp := some ⟨.illegalOp, 0⟩ }) ∧
  (∀ (s t : State) (i : Instr) (d : Word), s.seedExt = false → exec i s = .next t → t.rsp ≠ some ⟨.invalidSeed, d⟩) ∧
  (∀ is : List Instr, ∃ n : Nat, (mealyRun false is canonicalSeed).1 = Words.next^[n] canonicalSeed)

/-- The model's answer to a SEED put to an engine whose build has no SEED, which no step does (log entry 2, DEDUCED from
R107). -/
def Obligations.SeedWithoutSeedExtAnswersIllegalOp : Prop :=
  ∀ (s : State) (w0 w1 w2 w3 w4 w5 : Word), s.seedExt = false →
    exec (.seed w0 w1 w2 w3 w4 w5) s = .next { s with rsp := some ⟨.illegalOp, 0⟩ }

/-! ### Reserved commands and statuses (30_encoding, 60_exceptions) -/

/-- A reserved command answers (ILLEGAL_OP, 0), writes no state word and does not stop the engine: the next command is
executed as if the reserved one had not been. R53 gives this for 2'b11 in both builds and for 2'b10 with `SEED_EXT` = 0;
that `exec .rsvd10` answers so with `SEED_EXT` = 1 too is the model's choice (log entry 16, DESIGN CHOICE). -/
def Obligations.ReservedCommandsAnswerIllegalOp : Prop :=
  (∀ (seedExt : Bool) (cmd : CommandWord), opField cmd = 0b11#2 → decode seedExt cmd = .rsvd11) ∧
  (∀ cmd : CommandWord, opField cmd = 0b10#2 → decode false cmd = .rsvd10) ∧
  (∀ s : State,
    exec .rsvd10 s = .next { s with rsp := some ⟨.illegalOp, 0x00000000⟩ } ∧
    exec .rsvd11 s = .next { s with rsp := some ⟨.illegalOp, 0x00000000⟩ } ∧
    ∀ i : Instr, exec i { s with rsp := some ⟨.illegalOp, 0x00000000⟩ } = exec i s)

/-- R111: every status with its code and its cause; each response has one of the three and 2'b11 is never produced. -/
def Obligations.StatusesHaveTheirCodesAndCauses : Prop :=
  (Status.ok.code = 0b00#2 ∧ Status.invalidSeed.code = 0b01#2 ∧ Status.illegalOp.code = 0b10#2 ∧
    ∀ st : Status, st.code ≠ 0b11#2) ∧
  (∀ (i : Instr) (s : State), WellFormed s.seedExt i = true → ∃ t r, exec i s = .next t ∧ t.rsp = some r ∧
    (r.status = .invalidSeed ↔
      ∃ w0 w1 w2 w3 w4 w5, i = .seed w0 w1 w2 w3 w4 w5 ∧ validSeed (seedOperand w0 w1 w2 w3 w4 w5) = false) ∧
    (r.status = .illegalOp ↔ i = .rsvd10 ∨ i = .rsvd11) ∧
    (r.data = if i = .draw then s.words.output else 0x00000000))

/-- R110: a refused command has no partial effect: all that is left of it is the response, and the next command
executes as if it had never been issued. -/
def Obligations.RefusedCommandLeavesNoTrace : Prop :=
  ∀ (i : Instr) (s t : State) (r : Response), exec i s = .next t → t.rsp = some r → r.status ≠ .ok →
    r.data = 0x00000000 ∧ t = { s with rsp := some r } ∧ ∀ j : Instr, exec j t = exec j s

/-- R49: the 34 bits of a response, and the data of a response that is no successful DRAW's. -/
def Obligations.ResponseFormat : Prop :=
  (∀ r : Response,
    r.bits.toNat = 4 * r.data.toNat + r.status.code.toNat ∧
    r.bits.extractLsb' 0 2 = r.status.code ∧ r.bits.extractLsb' 2 32 = r.data ∧
    r.status.code = (match r.status with | .ok => 0b00#2 | .invalidSeed => 0b01#2 | .illegalOp => 0b10#2)) ∧
  (∀ (i : Instr) (s : State), ∃ t r, exec i s = .next t ∧ t.rsp = some r ∧
    ((i = .draw ∧ r = ⟨.ok, s.words.output⟩) ∨ (i ≠ .draw ∧ r.data = 0x00000000)))

/-- R12, R22: what a command leaves unchanged. All five commands keep the build, the command in flight and what the
host does next; only INIT, DRAW and an accepted SEED change the words. -/
def Obligations.CommandFrame : Prop :=
  ∀ (i : Instr) (s t : State), exec i s = .next t →
    t.seedExt = s.seedExt ∧ t.inFlight = s.inFlight ∧ t.host = s.host ∧
    (i ≠ .init → i ≠ .draw →
      (∀ w0 w1 w2 w3 w4 w5, i = .seed w0 w1 w2 w3 w4 w5 →
        s.seedExt = false ∨ validSeed (seedOperand w0 w1 w2 w3 w4 w5) = false) →
      t.words = s.words)

/-! ### Order (20_memory R36) -/

/-- R36 items 1 to 3: from an idle engine, as many steps as the host has actions execute its commands one after
another in order, each seeing the words the one before it left, one response each, in order; a reset starts again from
the canonical seed. -/
def Obligations.HostActionsExecuteInOrder : Prop :=
  ∀ s : State, s.inFlight = none → ∃ t,
    Host.Core.run Sys2Proof.core s.host.length s = .next t ∧ t.host = [] ∧ t.inFlight = none ∧
    t.seedExt = s.seedExt ∧ t.words = (hostRun s.seedExt s.host s.words).1 ∧
    stepReplies s.host.length s = (hostRun s.seedExt s.host s.words).2

/-- R36 item 4, R22: the responses are a function of the words, the build, the command in flight and the host's
actions; the response presented before has no part in them. -/
def Obligations.ResponsesDependOnTheCommandsAlone : Prop :=
  ∀ (k : Nat) (s s' : State), s.words = s'.words → s.seedExt = s'.seedExt →
    s.inFlight = s'.inFlight → s.host = s'.host → stepReplies k s = stepReplies k s'

/-! ### Reset (10_state R23, 70_reset_and_hazards R130 to R132) -/

/-- R23: the reset value of every piece of state. -/
def Obligations.ResetValues : Prop :=
  State.reset.words = ⟨0x00003039, 0x00003039, 0x00003039, 0x00003039, 0x00003039, 0x00003039⟩ ∧
  State.reset.inFlight = none ∧ State.reset.cmdReady = true ∧ State.reset.rsp = none ∧
  ∀ (st : BitVec 2) (d : Word), (State.reset.outputs st d).rspValid = false

/-- A step at which the host asserts reset, at any time, even with a command in flight, leaves the canonical seed, the
words that INIT leaves, drops the command in flight and gives no response, where INIT answers (OK, 0). That a step reads
the reset from a list is log entry 3, DESIGN CHOICE; the same at a clock edge is `ResetAtAClockEdge`. -/
def Obligations.ResetOverridesEverything : Prop :=
  ∀ (s : State) (rest : List HostAction), s.host = .reset :: rest →
    ∃ t, step s =
      .next { s with words := ⟨12345, 12345, 12345, 12345, 12345, 12345⟩, inFlight := none, rsp := none, host := rest } ∧
    exec .init s = .next t ∧ t.words = ⟨12345, 12345, 12345, 12345, 12345, 12345⟩ ∧ t.rsp = some ⟨.ok, 0⟩

/-! ### The signal-level binding (70_reset_and_hazards R140 to R145) -/

/-- R141: when a command is accepted; its pins are sampled at that edge; at an edge at which nothing is accepted the
command pins have no effect. -/
def Obligations.CommandAcceptance : Prop :=
  (∀ (pins : InputPins) (s : State),
    accepts pins s = true ↔ pins.rst = false ∧ pins.cmdValid = true ∧ s.inFlight = none) ∧
  (∀ (extra : Nat) (pins : InputPins) (s : State), accepts pins s = true →
    ∃ t, clockEdge extra pins s = .next t ∧
      (t.inFlight = match extra with
        | 0 => none
        | n + 1 => some ⟨decode s.seedExt (commandWord pins.cmdOp pins.cmdSeed), n⟩) ∧
      (extra = 0 → exec (decode s.seedExt (commandWord pins.cmdOp pins.cmdSeed)) s = .next t)) ∧
  (∀ (extra extra' : Nat) (pins pins' : InputPins) (s : State),
    pins.rst = pins'.rst → accepts pins s = false → accepts pins' s = false →
      clockEdge extra pins s = clockEdge extra' pins' s)

/-- R142: with `LAT(op)` = extra + 1, after the accepting edge and each of the next edges before the completing one
`cmd_ready` is 0, the words are the old ones and no response is presented, whatever the pins but reset do; after the
completing edge `cmd_ready` is 1 again; a latency of 1 leaves the engine ready. -/
def Obligations.BusyUntilTheCompletingEdge : Prop :=
  (∀ (e : Edge) (es : List Edge) (s : State), accepts e.pins s = true → (∀ e' ∈ es, e'.pins.rst = false) →
    es.length < e.extra → ∃ t, runEdges (e :: es) s = .next t ∧
      t.cmdReady = false ∧ t.words = s.words ∧ t.rsp = none ∧
      t.inFlight.map (·.instr) = some (decode s.seedExt (commandWord e.pins.cmdOp e.pins.cmdSeed)) ∧
      t.seedExt = s.seedExt ∧ t.host = s.host) ∧
  (∀ (e : Edge) (es : List Edge) (s : State), accepts e.pins s = true → (∀ e' ∈ es, e'.pins.rst = false) →
    es.length = e.extra → ∃ t, runEdges (e :: es) s = .next t ∧ t.cmdReady = true) ∧
  (∀ (pins : InputPins) (s : State), s.cmdReady = true →
    ∃ t, clockEdge 0 pins s = .next t ∧ t.cmdReady = true)

/-- R143: at edge E + L - 1 the accepted operation takes effect whole on the words it was accepted with, the engine is
ready again and the response is presented; a response is presented in no cycle but the one after a completing edge; its
pins have no meaning while `rsp_valid` = 0. -/
def Obligations.CompletionAtEdgeEPlusLMinusOne : Prop :=
  (∀ (e : Edge) (es : List Edge) (s : State), accepts e.pins s = true → (∀ e' ∈ es, e'.pins.rst = false) →
    es.length = e.extra → ∃ t r, runEdges (e :: es) s = .next t ∧
      exec (decode s.seedExt (commandWord e.pins.cmdOp e.pins.cmdSeed)) s = .next t ∧
      t.cmdReady = true ∧ t.rsp = some r ∧
      ∀ (st : BitVec 2) (d : Word), t.outputs st d = ⟨true, true, r.status.code, r.data⟩) ∧
  (∀ (extra : Nat) (pins : InputPins) (s t : State), clockEdge extra pins s = .next t →
    (t.rsp ≠ none ↔
      pins.rst = false ∧ ((∃ i, s.inFlight = some ⟨i, 0⟩) ∨ (accepts pins s = true ∧ extra = 0)))) ∧
  (∀ (s : State) (st : BitVec 2) (d : Word), s.rsp = none → s.outputs st d = ⟨s.cmdReady, false, st, d⟩)

/-- R130, R132, R144: reset at an edge, whatever the state, the command in flight and the other inputs are. -/
def Obligations.ResetAtAClockEdge : Prop :=
  ∀ (extra : Nat) (pins : InputPins) (s : State), pins.rst = true →
    accepts pins s = false ∧
    ∃ t, clockEdge extra pins s = .next t ∧
      t = { s with words := ⟨12345, 12345, 12345, 12345, 12345, 12345⟩, inFlight := none, rsp := none } ∧
      t.cmdReady = true ∧ ∀ (st : BitVec 2) (d : Word), (t.outputs st d).rspValid = false

/-- R145: a run of the binding from a reset, with no further reset, presents exactly the responses of the transaction
machine to the accepted commands, in order, and holds its words; the last accepted command may still be in flight, and
a command in flight at the reset is discarded. -/
def Obligations.ClockedRunAnswersTheAcceptedCommands : Prop :=
  ∀ (e : Edge) (es : List Edge) (s : State), e.pins.rst = true → (∀ e' ∈ es, e'.pins.rst = false) →
    ∃ t done, runEdges (e :: es) s = .next t ∧
      acceptedCommands (e :: es) s = done ++ (t.inFlight.map (·.instr)).toList ∧
      mealyRun s.seedExt done ⟨12345, 12345, 12345, 12345, 12345, 12345⟩ = (t.words, pulses (e :: es) s)

/-- R137: latency changes no response and no word: two runs from one idle state that accept the same commands and end
with none in flight present the same responses and end with the same words. -/
def Obligations.LatencyChangesNoResponse : Prop :=
  ∀ (es es' : List Edge) (s t t' : State), s.inFlight = none →
    (∀ e ∈ es, e.pins.rst = false) → (∀ e ∈ es', e.pins.rst = false) →
    runEdges es s = .next t → runEdges es' s = .next t' → t.inFlight = none → t'.inFlight = none →
    acceptedCommands es s = acceptedCommands es' s →
      pulses es s = pulses es' s ∧ t.words = t'.words

/-- A step of the idle engine is a clock edge of latency 1 with the pins of the host's action (R142, R143: with L = 1 the
engine is never busy; that a step reads its action from a list is log entry 3). -/
def Obligations.StepIsAClockEdgeOfLatencyOne : Prop :=
  ∀ (s : State) (rest : List HostAction), s.inFlight = none →
    (∀ (op : Opcode) (seed : SeedBits),
      step { s with host := .command (commandWord op seed) :: rest } =
        clockEdge 0 ⟨false, true, op, seed⟩ { s with host := rest }) ∧
    (∀ (op : Opcode) (seed : SeedBits),
      step { s with host := .idle :: rest } = clockEdge 0 ⟨false, false, op, seed⟩ { s with host := rest }) ∧
    (∀ (valid : Bool) (op : Opcode) (seed : SeedBits),
      step { s with host := .reset :: rest } = clockEdge 0 ⟨true, valid, op, seed⟩ { s with host := rest })

/-- R13: what the host sees does not depend on the state words. -/
def Obligations.HostCannotReadTheWords : Prop :=
  ∀ (st : BitVec 2) (d : Word) (x : Words) (s : State), { s with words := x }.outputs st d = s.outputs st d

/-! ### Instances (10_state R24) -/

/-- R24: stepping one instance is its own step and leaves every other as it was, so steps of two instances commute. -/
def Obligations.InstancesShareNothing : Prop :=
  (∀ (k : Nat) (states : List State) (s : State), states[k]? = some s →
    ∃ t after, step s = .next t ∧ stepAt k states = .next after ∧ after[k]? = some t ∧
      after.length = states.length ∧ ∀ j, j ≠ k → after[j]? = states[j]?) ∧
  (∀ (j k : Nat) (states a b a' b' : List State), j ≠ k →
    stepAt j states = .next a → stepAt k a = .next b →
    stepAt k states = .next a' → stepAt j a' = .next b' → b = b')
end

