-- ==== Sys2Proof/Laws/Datapath.lean ====
section
/-! SUPPORT. The small lemmas of the predicates and of the quotient: what each says, without its definition. -/

namespace Sys2Proof.Machine

@[simp] theorem needsCorrection_iff (t : Int) : needsCorrection t = true ↔ t < 0 := by
  simp [needsCorrection]

@[simp] theorem selectsAdd_iff (r1 r2 : Word) : selectsAdd r1 r2 = true ↔ r1.toNat ≤ r2.toNat := by
  simp [selectsAdd]

theorem validSeed_iff (x : Words) : validSeed x = true ↔ x.InRange ∧ ¬ x.ZeroA ∧ ¬ x.ZeroB := by
  unfold validSeed
  exact decide_eq_true_iff

theorem tdiv_of_nonneg {p : Int} (h : 0 ≤ p) (m : Nat) : tdiv p m = p / (m : Int) := if_pos h

theorem tdiv_of_neg {p : Int} (h : p < 0) (m : Nat) : tdiv p m = -((-p) / (m : Int)) := if_neg (by omega)

/-- An integer that fits in 32 bits is kept by the word that holds it. -/
theorem toNat_ofInt_word {v : Int} (h0 : 0 ≤ v) (h1 : v < 2 ^ 32) : ((BitVec.ofInt 32 v).toNat : Int) = v := by
  rw [BitVec.toNat_ofInt]
  omega

end Sys2Proof.Machine
end

