-- ==== Sys2Proof/Laws/State.lean ====
section
/-! SUPPORT. One lemma per field of the state and per named update. -/

namespace Sys2Proof.Machine

variable (s : State) (x : Words) (st : Status) (d : Word) (f : Option InFlight) (as : List HostAction)

@[simp] theorem State.setWords_words : (s.setWords x).words = x := rfl
@[simp] theorem State.setWords_seedExt : (s.setWords x).seedExt = s.seedExt := rfl
@[simp] theorem State.setWords_inFlight : (s.setWords x).inFlight = s.inFlight := rfl
@[simp] theorem State.setWords_rsp : (s.setWords x).rsp = s.rsp := rfl
@[simp] theorem State.setWords_host : (s.setWords x).host = s.host := rfl

@[simp] theorem State.respond_words : (s.respond st d).words = s.words := rfl
@[simp] theorem State.respond_seedExt : (s.respond st d).seedExt = s.seedExt := rfl
@[simp] theorem State.respond_inFlight : (s.respond st d).inFlight = s.inFlight := rfl
@[simp] theorem State.respond_rsp : (s.respond st d).rsp = some ⟨st, d⟩ := rfl
@[simp] theorem State.respond_host : (s.respond st d).host = s.host := rfl

@[simp] theorem State.raise_words : (s.raise st).words = s.words := rfl
@[simp] theorem State.raise_seedExt : (s.raise st).seedExt = s.seedExt := rfl
@[simp] theorem State.raise_inFlight : (s.raise st).inFlight = s.inFlight := rfl
@[simp] theorem State.raise_rsp : (s.raise st).rsp = some ⟨st, 0#32⟩ := rfl
@[simp] theorem State.raise_host : (s.raise st).host = s.host := rfl

@[simp] theorem State.clearResponse_words : s.clearResponse.words = s.words := rfl
@[simp] theorem State.clearResponse_seedExt : s.clearResponse.seedExt = s.seedExt := rfl
@[simp] theorem State.clearResponse_inFlight : s.clearResponse.inFlight = s.inFlight := rfl
@[simp] theorem State.clearResponse_rsp : s.clearResponse.rsp = none := rfl
@[simp] theorem State.clearResponse_host : s.clearResponse.host = s.host := rfl

@[simp] theorem State.setInFlight_words : (s.setInFlight f).words = s.words := rfl
@[simp] theorem State.setInFlight_seedExt : (s.setInFlight f).seedExt = s.seedExt := rfl
@[simp] theorem State.setInFlight_inFlight : (s.setInFlight f).inFlight = f := rfl
@[simp] theorem State.setInFlight_rsp : (s.setInFlight f).rsp = s.rsp := rfl
@[simp] theorem State.setInFlight_host : (s.setInFlight f).host = s.host := rfl

@[simp] theorem State.setHost_words : (s.setHost as).words = s.words := rfl
@[simp] theorem State.setHost_seedExt : (s.setHost as).seedExt = s.seedExt := rfl
@[simp] theorem State.setHost_inFlight : (s.setHost as).inFlight = s.inFlight := rfl
@[simp] theorem State.setHost_rsp : (s.setHost as).rsp = s.rsp := rfl
@[simp] theorem State.setHost_host : (s.setHost as).host = as := rfl

@[simp] theorem State.applyReset_words : s.applyReset.words = canonicalSeed := rfl
@[simp] theorem State.applyReset_seedExt : s.applyReset.seedExt = s.seedExt := rfl
@[simp] theorem State.applyReset_inFlight : s.applyReset.inFlight = none := rfl
@[simp] theorem State.applyReset_rsp : s.applyReset.rsp = none := rfl
@[simp] theorem State.applyReset_host : s.applyReset.host = s.host := rfl

end Sys2Proof.Machine
end

