-- ==== Sys2Proof/Laws/Ops.lean ====
section
/-! SUPPORT. What each shared operation can do, said once: the equations of the transaction and of the clock edge,
the run of a step, and the words that a DRAW moves. -/

namespace Sys2Proof.Machine

@[simp] theorem exec_init (s : State) : exec .init s = .next ((s.setWords canonicalSeed).respond .ok 0#32) := rfl

@[simp] theorem exec_draw (s : State) :
    exec .draw s = .next ((s.setWords s.words.next).respond .ok s.words.output) := rfl

@[simp] theorem exec_rsvd10 (s : State) : exec .rsvd10 s = .next (s.raise .illegalOp) := rfl

@[simp] theorem exec_rsvd11 (s : State) : exec .rsvd11 s = .next (s.raise .illegalOp) := rfl

/-- The three ends of a SEED (R101, R107). -/
theorem exec_seed_cases (w0 w1 w2 w3 w4 w5 : Word) (s : State) :
    (s.seedExt = true ∧ validSeed (seedOperand w0 w1 w2 w3 w4 w5) = true ∧
      exec (.seed w0 w1 w2 w3 w4 w5) s =
        .next ((s.setWords (seedOperand w0 w1 w2 w3 w4 w5)).respond .ok 0#32)) ∨
    (s.seedExt = true ∧ validSeed (seedOperand w0 w1 w2 w3 w4 w5) = false ∧
      exec (.seed w0 w1 w2 w3 w4 w5) s = .next (s.raise .invalidSeed)) ∨
    (s.seedExt = false ∧ exec (.seed w0 w1 w2 w3 w4 w5) s = .next (s.raise .illegalOp)) := by
  cases he : s.seedExt <;> cases hv : validSeed (seedOperand w0 w1 w2 w3 w4 w5) <;>
    simp [exec, execSeed, he, hv]

/-- The transaction when the host asserts reset. -/
theorem transaction_reset {s : State} {rest : List HostAction} (hh : s.host = .reset :: rest) :
    transaction s = .next (s.applyReset.setHost rest) := by
  cases hf : s.inFlight <;> simp [transaction, hh, hf]

/-- The transaction of the idle engine when the host offers a command. -/
theorem transaction_command {s : State} {cmd : CommandWord} {rest : List HostAction} (hf : s.inFlight = none)
    (hh : s.host = .command cmd :: rest) : transaction s = exec (decode s.seedExt cmd) (s.setHost rest) := by
  simp [transaction, hf, hh]

/-- The transaction of the idle engine in a gap the host leaves. -/
theorem transaction_idle {s : State} {rest : List HostAction} (hf : s.inFlight = none)
    (hh : s.host = .idle :: rest) : transaction s = .next (s.clearResponse.setHost rest) := by
  simp [transaction, hf, hh]

/-- The transaction of the idle engine when the host does nothing more. -/
theorem transaction_empty {s : State} (hf : s.inFlight = none) (hh : s.host = []) :
    transaction s = .next s.clearResponse := by
  simp [transaction, hf, hh]

/-- The transaction with a command in flight, unless the host asserts reset. -/
theorem transaction_inFlight {s : State} {f : InFlight} (hf : s.inFlight = some f)
    (hh : ∀ rest, s.host ≠ .reset :: rest) : transaction s = exec f.instr (s.setInFlight none) := by
  rcases h : s.host with _ | ⟨_ | _ | cmd, rest⟩
  · simp [transaction, hf, h]
  · simp [transaction, hf, h]
  · exact absurd h (hh rest)
  · simp [transaction, hf, h]

/-- A clock edge with `rst` = 1. -/
theorem clockEdge_reset (extra : Nat) {pins : InputPins} (s : State) (h : pins.rst = true) :
    clockEdge extra pins s = .next s.applyReset := by
  simp [clockEdge, h]

/-- A clock edge that accepts a command. -/
theorem clockEdge_accept (extra : Nat) {pins : InputPins} {s : State} (h : accepts pins s = true) :
    clockEdge extra pins s = accept extra (pins.command s.seedExt) s := by
  have hr : pins.rst = false := by cases hp : pins.rst <;> simp_all [accepts]
  have hf : s.inFlight = none := by cases hp : s.inFlight <;> simp_all [accepts, State.cmdReady]
  simp [clockEdge, hr, hf, h]

/-- A clock edge of the busy engine, `rst` = 0. -/
theorem clockEdge_busy (extra : Nat) {pins : InputPins} {s : State} {f : InFlight} (hr : pins.rst = false)
    (hf : s.inFlight = some f) : clockEdge extra pins s = busyEdge f s := by
  simp [clockEdge, hr, hf]

/-- A clock edge of the idle engine that is offered nothing, `rst` = 0. -/
theorem clockEdge_idle (extra : Nat) {pins : InputPins} {s : State} (hr : pins.rst = false)
    (hv : pins.cmdValid = false) (hf : s.inFlight = none) : clockEdge extra pins s = .next s.clearResponse := by
  simp [clockEdge, hr, hf, accepts, hv]

/-- A run of the machine, unfolded by the step it begins with. -/
theorem core_run_succ {k : Nat} {s t : State} (h : step s = .next t) :
    Host.Core.run Sys2Proof.core (k + 1) s = Host.Core.run Sys2Proof.core k t := by
  have hc : Sys2Proof.core.step s = .next t := h
  simp only [Host.Core.run, hc]

@[simp] theorem accept_zero (i : Instr) (s : State) : accept 0 i s = exec i s := rfl

@[simp] theorem accept_succ (n : Nat) (i : Instr) (s : State) :
    accept (n + 1) i s = .next (s.clearResponse.setInFlight (some ⟨i, n⟩)) := rfl

@[simp] theorem busyEdge_zero (i : Instr) (s : State) : busyEdge ⟨i, 0⟩ s = exec i (s.setInFlight none) := rfl

@[simp] theorem busyEdge_succ (i : Instr) (n : Nat) (s : State) :
    busyEdge ⟨i, n + 1⟩ s = .next (s.clearResponse.setInFlight (some ⟨i, n⟩)) := rfl

@[simp] theorem Words.next_a0 (x : Words) : x.next.a0 = x.a1 := rfl
@[simp] theorem Words.next_a1 (x : Words) : x.next.a1 = x.a2 := rfl
@[simp] theorem Words.next_a2 (x : Words) : x.next.a2 = x.r1 := rfl
@[simp] theorem Words.next_b0 (x : Words) : x.next.b0 = x.b1 := rfl
@[simp] theorem Words.next_b1 (x : Words) : x.next.b1 = x.b2 := rfl
@[simp] theorem Words.next_b2 (x : Words) : x.next.b2 = x.r2 := rfl

end Sys2Proof.Machine
end

