-- ==== Sys2Proof/Laws/PerInstr.lean ====
section
/-! SUPPORT. The statements made per instruction: the operation code of a command stands in bits 1:0 of its command
word (30_encoding R47, R48). -/

namespace Sys2Proof.Laws

/-- The low two bits of the word of `i` are its operation code. -/
def OpcodeField.Statement (i : Instr) : Prop := opField (encode i) = i.op

/-- The field `op` of a command word built from the two ports is the port `cmd_op`. -/
theorem opField_commandWord (op : Opcode) (seed : SeedBits) : opField (commandWord op seed) = op := by
  apply BitVec.eq_of_toNat_eq
  simp only [opField, commandWord, BitVec.extractLsb'_toNat, BitVec.toNat_append, Nat.shiftRight_zero]
  rw [← Nat.shiftLeft_add_eq_or_of_lt op.isLt, Nat.shiftLeft_eq, Nat.mul_add_mod_self_right,
    Nat.mod_eq_of_lt op.isLt]

theorem OpcodeField.init : OpcodeField.Statement .init := opField_commandWord _ _

theorem OpcodeField.draw : OpcodeField.Statement .draw := opField_commandWord _ _

theorem OpcodeField.seed (w0 w1 w2 w3 w4 w5 : Word) : OpcodeField.Statement (.seed w0 w1 w2 w3 w4 w5) :=
  opField_commandWord _ _

theorem OpcodeField.rsvd10 : OpcodeField.Statement .rsvd10 := opField_commandWord _ _

theorem OpcodeField.rsvd11 : OpcodeField.Statement .rsvd11 := opField_commandWord _ _

end Sys2Proof.Laws
end

