-- ==== Sys2Proof/Tests/Slice0.lean ====
section
/-! SUPPORT. Tests on fixed values, each from a vector of spec/95_test_vectors.md or an encoding of
spec/30_encoding.md, and for every statement with hypotheses a concrete case that meets them. -/

namespace Sys2Proof.Tests

open Sys2Proof Sys2Proof.Machine

/-- The idle engine of a build with these words and this list of host actions. -/
def engine (seedExt : Bool) (x : Words) (host : List HostAction := []) : State :=
  { words := x, seedExt := seedExt, inFlight := none, rsp := none, host := host }

/-- The words and the response after an outcome. -/
def result : Host.Outcome State Fault Refusal → Option (Words × Option Response)
  | .next t => some (t.words, t.rsp)
  | .fault _ => none
  | .refused _ => none

/-- The state after a DRAW. -/
def drawn (x : Words) : Option (Words × Option Response) := result (exec .draw (engine false x))

/-- The state after a SEED issued from the canonical seed (V26). -/
def seeded (w0 w1 w2 w3 w4 w5 : Word) : Option (Words × Option Response) :=
  result (exec (.seed w0 w1 w2 w3 w4 w5) (engine true canonicalSeed))

/-! ### WellFormed refuses the commands that a build does not have (R46, R48) -/

theorem test_illformed_seed_without_ext : WellFormed false (.seed 1 2 3 4 5 6) = false := by decide

theorem test_illformed_rsvd10_with_ext : WellFormed true .rsvd10 = false := by decide

theorem test_wellformed_commands :
    WellFormed true (.seed 1 2 3 4 5 6) = true ∧ WellFormed false .rsvd10 = true ∧ WellFormed false .init = true ∧
      WellFormed true .draw = true ∧ WellFormed false .rsvd11 = true := by decide

/-! ### Decoding (V29, R47) -/

theorem test_decode_c0 : decodeC0 0b00#2 = .init ∧ decodeC0 0b01#2 = .draw ∧ decodeC0 0b10#2 = .rsvd10 ∧
    decodeC0 0b11#2 = .rsvd11 := by decide

theorem test_decode_init_cs : decode true 0x0000000000000000000000000000000000000000000000000#194 = .init := by decide

theorem test_decode_draw_ignores_seed_fields :
    decode true 0x3FFFFFFFFFFFFFFFFFFFFFFFFFFFFFFFFFFFFFFFFFFFFFFFD#194 = .draw := by decide

theorem test_decode_seed_places :
    decode true 0x0000000000000000400000000000000040000000000000002#194 = .seed 0 0 1 0 1 0 ∧
    decode true 0x3FFFFFCB80000000400000004000000040000000400000006#194 = .seed 1 1 1 1 1 4294967086 := by decide

theorem test_decode_seed_canonical :
    decode true 0x00000C0E40000C0E40000C0E40000C0E40000C0E40000C0E6#194 =
      .seed 12345 12345 12345 12345 12345 12345 := by decide

theorem test_decode_rsvd11_cs : decode true 0x0000000000000000000000000000000000000000000000003#194 = .rsvd11 := by decide

/-- P3, command 4. -/
theorem test_encode_seed :
    encode (.seed 0 0 0 1 1 1) = 0x0000000040000000400000004000000000000000000000002#194 := by decide

theorem test_table_words : decodeTableWord 8 0 = some .init ∧ decodeTableWord 8 1 = some .draw ∧
    decodeTableWord 8 2 = some (.seed 0 0 0 0 0 0) ∧ decodeTableWord 8 3 = some .rsvd11 ∧
    decodeTableWord 200 (2 ^ 194) = none := by decide

/-! ### The operations (V1, V10 to V28) -/

/-- V27. -/
theorem test_init : result (exec .init (engine false ⟨3023790853, 3023790853, 3385359573, 2478282264, 1655725443, 2057415812⟩)) =
    some (⟨12345, 12345, 12345, 12345, 12345, 12345⟩, some ⟨.ok, 0⟩) := by decide

/-- V1 draws 1, 4 and 6, V10 to V13, V23 and V24: the reductions. -/
theorem test_draw_reductions :
    drawn ⟨12345, 12345, 12345, 12345, 12345, 12345⟩ =
      some (⟨12345, 12345, 3023790853, 12345, 12345, 2478282264⟩, some ⟨.ok, 545508589⟩) ∧
    drawn ⟨3023790853, 3023790853, 3385359573, 2478282264, 1655725443, 2057415812⟩ =
      some (⟨3023790853, 3385359573, 1322208174, 1655725443, 2057415812, 2070190165⟩, some ⟨.ok, 3546985096⟩) ∧
    drawn ⟨3385359573, 1322208174, 2930192941, 2057415812, 2070190165, 1978299747⟩ =
      some (⟨1322208174, 2930192941, 2462079208, 2070190165, 1978299747, 171163572⟩, some ⟨.ok, 2290915636⟩) ∧
    drawn ⟨1, 1254346549, 7, 1, 1, 1⟩ = some (⟨1254346549, 7, 0, 1, 1, 4294101466⟩, some ⟨.ok, 865621⟩) ∧
    drawn ⟨184888585, 1, 7, 1, 1, 1⟩ = some (⟨1, 7, 0, 1, 1, 4294101466⟩, some ⟨.ok, 865621⟩) ∧
    drawn ⟨1, 1, 1, 1, 5, 1185893806⟩ = some (⟨1, 1, 592852, 5, 1185893806, 0⟩, some ⟨.ok, 592852⟩) ∧
    drawn ⟨1, 1, 1, 360363334, 5, 1⟩ = some (⟨1, 1, 592852, 5, 1, 0⟩, some ⟨.ok, 592852⟩) ∧
    drawn ⟨1, 0, 0, 1, 0, 0⟩ = some (⟨0, 0, 4294156359, 0, 0, 4293573854⟩, some ⟨.ok, 582505⟩) ∧
    drawn ⟨0xFFFFFFFF, 0xFFFFFFFF, 0xFFFFFFFF, 0xFFFFFFFF, 0xFFFFFFFF, 0xFFFFFFFF⟩ =
      some (⟨0xFFFFFFFF, 0xFFFFFFFF, 123313216, 0xFFFFFFFF, 0xFFFFFFFF, 2211011811⟩, some ⟨.ok, 2207268492⟩) := by
  decide

/-- V14, V15, V16, V17b, V18, V19 and V21: the output combine at the ends of its branches. -/
theorem test_draw_outputs :
    drawn ⟨0, 0, 1, 0, 1, 0⟩ = some (⟨0, 1, 0, 1, 0, 0⟩, some ⟨.ok, 0xFFFFFF2F⟩) ∧
    drawn ⟨4269151555, 0, 9, 2582721925, 9, 0⟩ = some (⟨0, 9, 12345, 9, 0, 12345⟩, some ⟨.ok, 0xFFFFFF2F⟩) ∧
    drawn ⟨0, 0, 1, 69372715, 1, 0⟩ = some (⟨0, 1, 0, 1, 0, 4294944442⟩, some ⟨.ok, 22645⟩) ∧
    drawn ⟨3136462641, 0, 1, 69372715, 1, 0⟩ =
      some (⟨0, 1, 4294944441, 1, 0, 4294944442⟩, some ⟨.ok, 4294967086⟩) ∧
    drawn ⟨2349796154, 0, 1, 0, 1, 0⟩ = some (⟨0, 1, 4294967086, 1, 0, 0⟩, some ⟨.ok, 4294967086⟩) ∧
    drawn ⟨1945170933, 0, 1, 0, 1, 0⟩ = some (⟨0, 1, 1, 1, 0, 0⟩, some ⟨.ok, 1⟩) ∧
    drawn ⟨0, 0, 0, 12345, 12345, 12345⟩ = some (⟨0, 0, 0, 12345, 12345, 2478282264⟩, some ⟨.ok, 1816684823⟩) := by
  decide

/-- V26, the accepted seeds, and R107. -/
theorem test_seed_accepted :
    seeded 0 0 1 0 1 0 = some (⟨0, 0, 1, 0, 1, 0⟩, some ⟨.ok, 0⟩) ∧
    seeded 4294967086 4294967086 4294967086 4294944442 4294944442 4294944442 =
      some (⟨4294967086, 4294967086, 4294967086, 4294944442, 4294944442, 4294944442⟩, some ⟨.ok, 0⟩) ∧
    seeded 4294944443 1 1 1 1 1 = some (⟨4294944443, 1, 1, 1, 1, 1⟩, some ⟨.ok, 0⟩) := by decide

/-- V26, the refused seeds. -/
theorem test_seed_refused :
    ∀ o ∈ [seeded 0 0 0 1 1 1, seeded 1 1 1 0 0 0, seeded 0 0 0 0 0 0, seeded 4294967087 1 1 1 1 1,
        seeded 1 1 1 4294944443 1 1, seeded 1 1 1 1 1 4294967086,
        seeded 0xFFFFFFFF 0xFFFFFFFF 0xFFFFFFFF 0xFFFFFFFF 0xFFFFFFFF 0xFFFFFFFF],
      o = some (canonicalSeed, some ⟨.invalidSeed, 0⟩) := by decide

/-- V28. -/
theorem test_reserved :
    result (exec .rsvd10 (engine false ⟨1, 2, 3, 4, 5, 6⟩)) = some (⟨1, 2, 3, 4, 5, 6⟩, some ⟨.illegalOp, 0⟩) ∧
    result (exec .rsvd11 (engine true ⟨1, 2, 3, 4, 5, 6⟩)) = some (⟨1, 2, 3, 4, 5, 6⟩, some ⟨.illegalOp, 0⟩) := by
  decide

/-! ### One step (P3 command 1, P4 command 4, R132) -/

theorem test_step_seed :
    result (step (engine true canonicalSeed [.command 0x0000000000000000400000000000000040000000000000002#194])) =
      some (⟨0, 0, 1, 0, 1, 0⟩, some ⟨.ok, 0⟩) := by decide

theorem test_step_opcode10_without_ext :
    result (step (engine false canonicalSeed [.command 2#194])) = some (canonicalSeed, some ⟨.illegalOp, 0⟩) := by decide

theorem test_step_reset_drops_the_command_in_flight :
    result (step { engine false ⟨1, 2, 3, 4, 5, 6⟩ [.reset] with inFlight := some ⟨.draw, 1⟩ }) =
      some (canonicalSeed, none) := by decide

theorem test_step_after_reset :
    ∀ w < 4, (result (step (State.reset.withFetchWord 8 w))).isSome = true := by decide

/-! ### Clock edges (P5, `LAT(DRAW)` = 3) -/

/-- The pins with a DRAW offered, and with nothing offered. -/
def offerDraw : InputPins := { rst := false, cmdValid := true, cmdOp := 0b01#2, cmdSeed := 0 }
def noOffer : InputPins := { rst := false, cmdValid := false, cmdOp := 0b00#2, cmdSeed := 0 }
def assertReset : InputPins := { rst := true, cmdValid := true, cmdOp := 0b01#2, cmdSeed := 0 }

/-- The words and the output pins after an outcome; the meaningless pins of an idle response are given as 3 and 7. -/
def seen : Host.Outcome State Fault Refusal → Option (Words × OutputPins)
  | .next t => some (t.words, t.outputs 0b11#2 7#32)
  | .fault _ => none
  | .refused _ => none

/-- Edges 1, 2 and 3. -/
theorem test_edges_of_a_draw :
    seen (clockEdge 2 offerDraw (engine false canonicalSeed)) = some (canonicalSeed, ⟨false, false, 0b11#2, 7⟩) ∧
    seen (clockEdge 0 noOffer { engine false canonicalSeed with inFlight := some ⟨.draw, 1⟩ }) =
      some (canonicalSeed, ⟨false, false, 0b11#2, 7⟩) ∧
    seen (clockEdge 0 noOffer { engine false canonicalSeed with inFlight := some ⟨.draw, 0⟩ }) =
      some (⟨12345, 12345, 3023790853, 12345, 12345, 2478282264⟩, ⟨true, true, 0b00#2, 0x2083CCED⟩) := by decide

/-- Edge 5. -/
theorem test_edge_reset_abandons :
    seen (clockEdge 0 assertReset { engine false ⟨1, 2, 3, 4, 5, 6⟩ with inFlight := some ⟨.draw, 1⟩ }) =
      some (canonicalSeed, ⟨true, false, 0b11#2, 7⟩) := by decide

/-! ### The hypotheses of each statement are met -/

theorem witness_DecodeOfEncodeIsTheCommand : WellFormed true (.seed 0xFFFFFFFF 0 1 2 3 0xFFFFFFFF) = true := by decide

theorem witness_CommandFieldsStandWhereTheFormatPutsThem : opField 0x3FFFFFFFFFFFFFFFFFFFFFFFFFFFFFFFFFFFFFFFFFFFFFFFE#194 = 0b10#2 := by
  decide

theorem witness_OpcodeSelectsTheOperation :
    opField 0#194 = 0b00#2 ∧ opField 5#194 = 0b01#2 ∧ opField 6#194 = 0b10#2 ∧ opField 7#194 = 0b11#2 := by decide

theorem witness_IgnoredSeedFieldsHaveNoEffect :
    (engine true canonicalSeed).seedExt = true ∧ opField 1#194 = opField 0xFFFFFFFFFD#194 ∧
      opField 1#194 ≠ 0b10#2 ∧ (1#194 : CommandWord) ≠ 0xFFFFFFFFFD#194 ∧ offerDraw.cmdOp ≠ 0b10#2 := by decide

theorem witness_PlacedTableWordIsExecuted : decodeTableWord 8 1 = some .draw := by decide

theorem witness_StepRunsTheDecodedCommand :
    (engine true canonicalSeed [.command 1#194]).inFlight = none ∧
      (engine true canonicalSeed [.command 1#194]).host = .command 1#194 :: [] := by decide

theorem witness_StepWithoutANewCommand_idle :
    (engine false canonicalSeed [.idle]).inFlight = none ∧ (engine false canonicalSeed [.idle]).host = .idle :: [] := by
  decide

theorem witness_StepWithoutANewCommand_empty :
    (engine false canonicalSeed).inFlight = none ∧ (engine false canonicalSeed).host = [] := by decide

theorem witness_StepWithoutANewCommand_inFlight : ∃ s : State,
    s.inFlight = some ⟨.draw, 2⟩ ∧ ∀ rest, s.host ≠ .reset :: rest :=
  ⟨{ engine false canonicalSeed with inFlight := some ⟨.draw, 2⟩ }, rfl, by simp [engine]⟩

theorem witness_InitLoadsTheCanonicalSeed : opField 4#194 = 0b00#2 := by decide

theorem witness_DrawFollowsTheProcedure :
    (engine false canonicalSeed).words = ⟨12345, 12345, 12345, 12345, 12345, 12345⟩ ∧ opField 5#194 = 0b01#2 := by decide

theorem witness_FirstDrawWorkedThrough : (engine false canonicalSeed).words = canonicalSeed := by decide

/-- `m` = 7 with each sign of `p`. -/
theorem witness_QuotientTruncatesTowardZero : 0 < 7 ∧ (0 : Int) ≤ 15 ∧ (-15 : Int) < 0 := by decide

/-- `m` = 7 with `p` = -15 (no multiple), -14 (a negative multiple), 14 and 0. -/
theorem witness_ReductionMakesOneCorrectiveAdd :
    0 < 7 ∧ ((-15 : Int) < 0 ∧ ¬ (7 : Int) ∣ -15) ∧ (7 : Int) ∣ -14 ∧ (7 : Int) ∣ 14 ∧ (7 : Int) ∣ 0 := by decide

theorem witness_ReducedValueIsTheResidue :
    0 < 7 ∧ ((0 : Int) ≤ 6 ∧ (6 : Int) < 7 ∧ (7 : Int) ∣ (-15) - 6) ∧ ((-15 : Int) < 0 ∧ ¬ (7 : Int) ∣ -15) ∧
      ((0 : Int) ≤ 15) ∧ (7 : Int) ∣ -14 := by decide

/-- The largest and the smallest words in range. -/
theorem witness_DrawIntermediatesAreBounded :
    Words.InRange ⟨4294967086, 0, 0, 4294944442, 0, 0⟩ ∧ Words.InRange ⟨0, 4294967086, 0, 0, 0, 4294944442⟩ := by decide

/-- The two branches and the case of equality (V1, V16, V20). -/
theorem witness_DrawOutputRange :
    canonicalSeed.r2.toNat < canonicalSeed.r1.toNat ∧
      (⟨0, 0, 1, 69372715, 1, 0⟩ : Words).r1.toNat < (⟨0, 0, 1, 69372715, 1, 0⟩ : Words).r2.toNat ∧
      (⟨0, 0, 0, 0, 0, 0⟩ : Words).r1 = (⟨0, 0, 0, 0, 0, 0⟩ : Words).r2 := by decide

theorem witness_DrawIsInjectiveInRange :
    canonicalSeed.InRange ∧ canonicalSeed.InRange ∧ canonicalSeed.next = canonicalSeed.next := by decide

theorem witness_WordsStayInRange :
    Words.InRange ⟨4294967086, 4294967086, 4294967086, 4294944442, 4294944442, 4294944442⟩ ∧
      ∃ t, exec (.seed 0 0 1 0 1 0) (engine true canonicalSeed) = .next t ∧ t.rsp = some ⟨.ok, 0⟩ :=
  ⟨by decide, _, rfl, by decide⟩

theorem witness_WordsNeverDegenerate :
    Words.ZeroA ⟨0, 0, 0, 1, 1, 1⟩ ∧ Words.ZeroB ⟨1, 1, 1, 0, 0, 0⟩ ∧
      ¬ Words.ZeroA ⟨4294967086, 0, 0, 0, 0, 0⟩ ∧ ¬ Words.ZeroB ⟨0, 0, 0, 4294944442, 0, 0⟩ ∧
      validSeed ⟨0, 0, 1, 0, 1, 0⟩ = true := by decide

theorem witness_DegenerateStateIsNoFault :
    (engine true ⟨0, 0, 0, 0, 0, 0⟩).words.Degenerate ∧ (engine true ⟨0, 0, 0, 1, 1, 1⟩).words.Degenerate ∧
      (∃ t, canonicalSeed.InRange ∧ ¬ canonicalSeed.Degenerate ∧ exec .draw (engine true canonicalSeed) = .next t) ∧
      (engine true canonicalSeed).seedExt = true :=
  ⟨by decide, by decide, ⟨_, by decide, by decide, rfl⟩, rfl⟩

theorem witness_StepKeepsTheInvariant : ∃ s t : State, s.Inv ∧ step s = .next t ∧ t.words ≠ s.words :=
  ⟨engine true canonicalSeed [.command 1#194], _, by decide, rfl, by decide⟩

theorem witness_ClockEdgeKeepsTheInvariant :
    ∃ s t : State, s.Inv ∧ clockEdge 0 noOffer s = .next t ∧ t.words ≠ s.words :=
  ⟨{ engine true canonicalSeed with inFlight := some ⟨.draw, 0⟩ }, _, by decide, rfl, by decide⟩

theorem witness_SeedLoadsOrRefuses : (engine true canonicalSeed).seedExt = true ∧ opField 6#194 = 0b10#2 := by decide

theorem witness_ValidSeedIsLoaded : (engine true canonicalSeed).seedExt = true ∧
    ((4294967086#32).toNat < 4294967087 ∧ (0#32).toNat < 4294967087 ∧ (0#32).toNat < 4294967087) ∧
    ((4294944442#32).toNat < 4294944443 ∧ (0#32).toNat < 4294944443 ∧ (0#32).toNat < 4294944443) ∧
    ¬ (4294967086#32 = 0 ∧ (0 : Word) = 0 ∧ (0 : Word) = 0) ∧ ¬ (4294944442#32 = 0 ∧ (0 : Word) = 0 ∧ (0 : Word) = 0) := by
  decide

/-- Each range clause at its first value that is not valid; the two all-zero clauses are V26's. -/
theorem witness_SeedNotValidIsRefused : (engine true canonicalSeed).seedExt = true ∧
    4294967087 ≤ (4294967087#32).toNat ∧ 4294944443 ≤ (4294944443#32).toNat ∧
    ((0 : Word) = 0 ∧ (0 : Word) = 0 ∧ (0 : Word) = 0) := by decide

theorem witness_SeedSucceedsIntoTheInvariantOrKeepsTheWords : (engine true canonicalSeed).seedExt = true := rfl

theorem witness_WithoutSeedExtOnlyDrawsMoveTheWords :
    (engine false canonicalSeed).seedExt = false ∧ opField 2#194 = 0b10#2 ∧ opField 2#194 = opField 6#194 ∧
      ∃ t, exec .rsvd10 (engine false canonicalSeed) = .next t :=
  ⟨rfl, by decide, by decide, _, rfl⟩

theorem witness_SeedWithoutSeedExtAnswersIllegalOp : (engine false canonicalSeed).seedExt = false := rfl

theorem witness_ReservedCommandsAnswerIllegalOp : opField 7#194 = 0b11#2 ∧ opField 2#194 = 0b10#2 := by decide

theorem witness_StatusesHaveTheirCodesAndCauses :
    WellFormed (engine true canonicalSeed).seedExt (.seed 0 0 0 1 1 1) = true ∧
      WellFormed (engine false canonicalSeed).seedExt .rsvd10 = true := by decide

theorem witness_RefusedCommandLeavesNoTrace : ∃ t r,
    exec (.seed 0 0 0 1 1 1) (engine true canonicalSeed) = .next t ∧ t.rsp = some r ∧ r.status ≠ .ok :=
  ⟨_, ⟨.invalidSeed, 0⟩, rfl, by decide, by decide⟩

theorem witness_CommandFrame : ∃ t, exec (.seed 0 0 0 1 1 1) (engine true canonicalSeed) = .next t ∧
    (.seed 0 0 0 1 1 1 : Instr) ≠ .init ∧ (.seed 0 0 0 1 1 1 : Instr) ≠ .draw ∧
    validSeed (seedOperand 0 0 0 1 1 1) = false :=
  ⟨_, rfl, by decide, by decide, by decide⟩

theorem witness_HostActionsExecuteInOrder : (engine true canonicalSeed [.command 1#194, .reset, .idle]).inFlight = none := rfl

theorem witness_ResponsesDependOnTheCommandsAlone : ∃ s s' : State, s.words = s'.words ∧ s.seedExt = s'.seedExt ∧
    s.inFlight = s'.inFlight ∧ s.host = s'.host ∧ s ≠ s' :=
  ⟨engine true canonicalSeed, { engine true canonicalSeed with rsp := some ⟨.ok, 1⟩ }, rfl, rfl, rfl, rfl, by decide⟩

theorem witness_ResetOverridesEverything :
    ({ engine false ⟨1, 2, 3, 4, 5, 6⟩ [.reset] with inFlight := some ⟨.draw, 1⟩ } : State).host = .reset :: [] := rfl

theorem witness_CommandAcceptance : accepts offerDraw (engine false canonicalSeed) = true ∧
    noOffer.rst = noOffer.rst ∧ accepts noOffer (engine false canonicalSeed) = false ∧
    accepts offerDraw { engine false canonicalSeed with inFlight := some ⟨.draw, 0⟩ } = false := by decide

/-- `LAT(op)` = 3: after the accepting edge, and after one more. -/
theorem witness_BusyUntilTheCompletingEdge :
    accepts (Edge.mk offerDraw 2).pins (engine false canonicalSeed) = true ∧
      (∀ e' ∈ [Edge.mk noOffer 0], e'.pins.rst = false) ∧ ([] : List Edge).length < (Edge.mk offerDraw 2).extra ∧
      [Edge.mk noOffer 0].length < (Edge.mk offerDraw 2).extra ∧
      [Edge.mk noOffer 0].length = (Edge.mk offerDraw 1).extra ∧ (engine false canonicalSeed).cmdReady = true := by decide

/-- `LAT(op)` = 1 and `LAT(op)` = 2. -/
theorem witness_CompletionAtEdgeEPlusLMinusOne :
    accepts (Edge.mk offerDraw 0).pins (engine false canonicalSeed) = true ∧
      ([] : List Edge).length = (Edge.mk offerDraw 0).extra ∧
      (∀ e' ∈ [Edge.mk noOffer 0], e'.pins.rst = false) ∧ [Edge.mk noOffer 0].length = (Edge.mk offerDraw 1).extra ∧
      (engine false canonicalSeed).rsp = none ∧ ∃ t, clockEdge 0 noOffer (engine false canonicalSeed) = .next t :=
  ⟨by decide, rfl, by decide, rfl, rfl, _, rfl⟩

theorem witness_ResetAtAClockEdge : assertReset.rst = true := rfl

theorem witness_ClockedRunAnswersTheAcceptedCommands :
    (Edge.mk assertReset 0).pins.rst = true ∧ ∀ e' ∈ [Edge.mk offerDraw 2, Edge.mk noOffer 0], e'.pins.rst = false := by
  decide

/-- The same DRAW with latency 1 and with latency 2. -/
theorem witness_LatencyChangesNoResponse : ∃ t t' : State,
    (engine false canonicalSeed).inFlight = none ∧ (∀ e ∈ [Edge.mk offerDraw 0], e.pins.rst = false) ∧
      (∀ e ∈ [Edge.mk offerDraw 1, Edge.mk noOffer 0], e.pins.rst = false) ∧
      runEdges [Edge.mk offerDraw 0] (engine false canonicalSeed) = .next t ∧
      runEdges [Edge.mk offerDraw 1, Edge.mk noOffer 0] (engine false canonicalSeed) = .next t' ∧
      t.inFlight = none ∧ t'.inFlight = none ∧
      acceptedCommands [Edge.mk offerDraw 0] (engine false canonicalSeed) =
        acceptedCommands [Edge.mk offerDraw 1, Edge.mk noOffer 0] (engine false canonicalSeed) :=
  ⟨_, _, rfl, by decide, by decide, rfl, rfl, rfl, rfl, by decide⟩

theorem witness_StepIsAClockEdgeOfLatencyOne : (engine false canonicalSeed).inFlight = none := rfl

theorem witness_InstancesShareNothing :
    [engine false canonicalSeed, engine true canonicalSeed][1]? = some (engine true canonicalSeed) ∧ (0 : Nat) ≠ 1 ∧
      ∃ a b a' b', stepAt 0 [engine false canonicalSeed, engine true canonicalSeed] = .next a ∧ stepAt 1 a = .next b ∧
        stepAt 1 [engine false canonicalSeed, engine true canonicalSeed] = .next a' ∧ stepAt 0 a' = .next b' :=
  ⟨rfl, by decide, _, _, _, _, rfl, rfl, rfl, rfl⟩

end Sys2Proof.Tests
end

