-- ==== Sys2Proof/Proofs/Quotient.lean ====
section
/-! PROOFS. The model's quotient is Lean's truncating quotient of integers (R8, R84 item 3). -/

namespace Sys2Proof.Machine

/-- On a negative dividend both quotients are odd, which reduces the claim to the floor of a positive one. -/
theorem tdiv_eq_intTdiv (p : Int) (m : Nat) : tdiv p m = p.tdiv m := by
  rcases le_or_gt 0 p with hp | hp
  · rw [tdiv_of_nonneg hp, Int.tdiv_eq_ediv_of_nonneg hp]
  · have hneg : 0 ≤ -p := by omega
    rw [tdiv_of_neg hp, ← Int.tdiv_eq_ediv_of_nonneg hneg, Int.neg_tdiv, neg_neg]

theorem tdiv_neg_dividend (p : Int) (m : Nat) : tdiv (-p) m = -tdiv p m := by
  rw [tdiv_eq_intTdiv, tdiv_eq_intTdiv, Int.neg_tdiv]

@[simp] theorem tdiv_zero_dividend (m : Nat) : tdiv 0 m = 0 := by
  rw [tdiv_eq_intTdiv, Int.zero_tdiv]

/-- Settles O16: the model's quotient is Lean's `Int.tdiv`, which gives oddness and the value at 0; the floors are the
two branches of its definition. -/
theorem quotientTruncatesTowardZero : Obligations.QuotientTruncatesTowardZero := by
  intro p m _
  have hodd : tdiv p m = -tdiv (-p) m := by rw [tdiv_neg_dividend, neg_neg]
  exact ⟨tdiv_eq_intTdiv p m, hodd, tdiv_zero_dividend m, fun hp => tdiv_of_nonneg hp m, fun hp => tdiv_of_neg hp m⟩

end Sys2Proof.Machine
end

