-- ==== Sys2Proof/Proofs/StateInvariant.lean ====
section
/-! PROOFS. The family 10_state: the invariant of the six words (R14, R15, R16), its preservation by every step and
every clock edge, and the frame and noninterference statements (R12, R13, R22, R23, R24).

The invariant of the words, in range and not degenerate, is exactly the validity predicate of a SEED
(`validSeed_iff_inRange_not_degenerate`), so the lemmas about it are stated with `validSeed`. -/

namespace Sys2Proof.Machine

/-! ### The reduced values (R75, R76) -/

theorem truncRem_eq_tmod (p : Int) (m : Nat) : truncRem p m = p.tmod m := by
  rw [truncRem, tdiv_eq_intTdiv, Int.tmod_def, mul_comm]

/-- The corrective add turns the truncating remainder into the non-negative residue: it is made exactly when `p` is
negative and no multiple of `m`, and there the two differ by `m`. -/
theorem reduce_eq_emod (p : Int) {m : Nat} (hm : 0 < m) : reduce p m = p % (m : Int) := by
  have hnonneg : 0 ≤ p % (m : Int) := Int.emod_nonneg p (by omega)
  have hlt : p % (m : Int) < m := Int.emod_lt_of_pos p (by omega)
  unfold reduce
  rw [truncRem_eq_tmod, Int.tmod_eq_emod]
  by_cases h : 0 ≤ p ∨ (m : Int) ∣ p
  · simp [h, hnonneg]
  · simp [h, hlt]

theorem reduce_nonneg (p : Int) {m : Nat} (hm : 0 < m) : 0 ≤ reduce p m := by
  rw [reduce_eq_emod p hm]
  exact Int.emod_nonneg p (by omega)

theorem reduce_lt (p : Int) {m : Nat} (hm : 0 < m) : reduce p m < m := by
  rw [reduce_eq_emod p hm]
  exact Int.emod_lt_of_pos p (by omega)

/-- The word that holds a reduced value loses nothing, for a modulus of at most 32 bits. -/
theorem toNat_ofInt_reduce (p : Int) {m : Nat} (hm : 0 < m) (hw : m < 2 ^ 32) :
    ((BitVec.ofInt 32 (reduce p m)).toNat : Int) = reduce p m := by
  have hlt := reduce_lt p hm
  exact toNat_ofInt_word (reduce_nonneg p hm) (by omega)

theorem Words.toNat_r1 (x : Words) : (x.r1.toNat : Int) = reduce x.p1 m1 :=
  toNat_ofInt_reduce x.p1 (by decide) (by decide)

theorem Words.toNat_r2 (x : Words) : (x.r2.toNat : Int) = reduce x.p2 m2 :=
  toNat_ofInt_reduce x.p2 (by decide) (by decide)

theorem Words.r1_lt (x : Words) : x.r1.toNat < m1 := by
  have hlt : reduce x.p1 m1 < m1 := reduce_lt x.p1 (by decide)
  rw [← x.toNat_r1] at hlt
  exact_mod_cast hlt

theorem Words.r2_lt (x : Words) : x.r2.toNat < m2 := by
  have hlt : reduce x.p2 m2 < m2 := reduce_lt x.p2 (by decide)
  rw [← x.toNat_r2] at hlt
  exact_mod_cast hlt

/-! ### All-zero registers (R15 items 1 and 2) -/

theorem Words.ZeroA.p1_eq {x : Words} (h : x.ZeroA) : x.p1 = 0 := by
  obtain ⟨h0, h1, -⟩ := h
  simp [Words.p1, h0, h1]

theorem Words.ZeroB.p2_eq {x : Words} (h : x.ZeroB) : x.p2 = 0 := by
  obtain ⟨h0, -, h2⟩ := h
  simp [Words.p2, h0, h2]

theorem reduce_zero {m : Nat} (hm : 0 < m) : reduce 0 m = 0 := by
  rw [reduce_eq_emod 0 hm, Int.zero_emod]

theorem Words.ZeroA.r1_eq {x : Words} (h : x.ZeroA) : x.r1 = 0#32 := by
  rw [Words.r1, h.p1_eq, reduce_zero (by decide), BitVec.ofInt_ofNat]

theorem Words.ZeroB.r2_eq {x : Words} (h : x.ZeroB) : x.r2 = 0#32 := by
  rw [Words.r2, h.p2_eq, reduce_zero (by decide), BitVec.ofInt_ofNat]

theorem Words.ZeroA.next {x : Words} (h : x.ZeroA) : x.next.ZeroA := ⟨h.2.1, h.2.2, h.r1_eq⟩

theorem Words.ZeroB.next {x : Words} (h : x.ZeroB) : x.next.ZeroB := ⟨h.2.1, h.2.2, h.r2_eq⟩

theorem Words.Degenerate.next {x : Words} (h : x.Degenerate) : x.next.Degenerate :=
  h.imp Words.ZeroA.next Words.ZeroB.next

/-- Where the other product of the multiply-accumulate is 0, the reduced value is 0 only if `m` divides `c * w`, so,
`c` and `m` being coprime, only if the oldest word `w` is 0. -/
theorem eq_zero_of_reduce_neg_mul_eq_zero {c m : Nat} {w : Word} (hm : 0 < m) (hc : Nat.Coprime m c)
    (hw : w.toNat < m) (h : reduce (-((c : Int) * (w.toNat : Int))) m = 0) : w = 0#32 := by
  have hdvd : m ∣ c * w.toNat := by
    rw [reduce_eq_emod _ hm] at h
    exact_mod_cast Int.dvd_neg.mp (Int.dvd_of_emod_eq_zero h)
  exact BitVec.eq_of_toNat_eq (Nat.eq_zero_of_dvd_of_lt (hc.dvd_of_dvd_mul_left hdvd) hw)

theorem coprime_m1_a13n : Nat.Coprime m1 a13n := by decide

theorem coprime_m2_a23n : Nat.Coprime m2 a23n := by decide

/-- The register after the DRAW is `(a1, a2, r1)`: with `a1` = 0 the multiply-accumulate has the oldest word alone. -/
theorem Words.zeroA_of_next {x : Words} (h0 : x.a0.toNat < m1) (h : x.next.ZeroA) : x.ZeroA := by
  obtain ⟨h1, h2, hr⟩ := h
  have hp : x.p1 = -((a13n : Int) * (x.a0.toNat : Int)) := by
    rw [Words.next_a0] at h1
    simp [Words.p1, h1]
  have hreduce : reduce x.p1 m1 = 0 := by
    rw [Words.next_a2] at hr
    rw [← x.toNat_r1, hr]
    rfl
  rw [hp] at hreduce
  exact ⟨eq_zero_of_reduce_neg_mul_eq_zero (by decide) coprime_m1_a13n h0 hreduce, h1, h2⟩

/-- The register after the DRAW is `(b1, b2, r2)`: with `b2` = 0 the multiply-accumulate has the oldest word alone. -/
theorem Words.zeroB_of_next {x : Words} (h0 : x.b0.toNat < m2) (h : x.next.ZeroB) : x.ZeroB := by
  obtain ⟨h1, h2, hr⟩ := h
  have hp : x.p2 = -((a23n : Int) * (x.b0.toNat : Int)) := by
    rw [Words.next_b1] at h2
    simp [Words.p2, h2]
  have hreduce : reduce x.p2 m2 = 0 := by
    rw [Words.next_b2] at hr
    rw [← x.toNat_r2, hr]
    rfl
  rw [hp] at hreduce
  exact ⟨eq_zero_of_reduce_neg_mul_eq_zero (by decide) coprime_m2_a23n h0 hreduce, h1, h2⟩

/-! ### The invariant of the words (R14, R15) -/

theorem validSeed_iff_inRange_not_degenerate (x : Words) : validSeed x = true ↔ x.InRange ∧ ¬ x.Degenerate := by
  rw [validSeed_iff, Words.Degenerate, not_or]

theorem validSeed_canonicalSeed : validSeed canonicalSeed = true := by decide

theorem Words.InRange.next {x : Words} (h : x.InRange) : x.next.InRange := by
  obtain ⟨⟨-, ha1, ha2⟩, -, hb1, hb2⟩ := h
  exact ⟨⟨ha1, ha2, x.r1_lt⟩, hb1, hb2, x.r2_lt⟩

theorem Words.InRange.not_degenerate_next {x : Words} (hx : x.InRange) (hd : ¬ x.Degenerate) :
    ¬ x.next.Degenerate := by
  obtain ⟨⟨ha0, -⟩, hb0, -⟩ := hx
  exact fun h => hd (h.imp (Words.zeroA_of_next ha0) (Words.zeroB_of_next hb0))

theorem validSeed_next {x : Words} (h : validSeed x = true) : validSeed x.next = true := by
  rw [validSeed_iff_inRange_not_degenerate] at h ⊢
  exact ⟨h.1.next, h.1.not_degenerate_next h.2⟩

section
variable {seedExt : Bool} {w0 w1 w2 w3 w4 w5 : Word}

theorem mealy_seed_loaded (x : Words) (he : seedExt = true)
    (hv : validSeed (seedOperand w0 w1 w2 w3 w4 w5) = true) :
    mealy seedExt x (.seed w0 w1 w2 w3 w4 w5) = (seedOperand w0 w1 w2 w3 w4 w5, ⟨.ok, 0#32⟩) := by
  simp [mealy, he, hv]

theorem mealy_seed_refused (x : Words) (he : seedExt = true)
    (hv : validSeed (seedOperand w0 w1 w2 w3 w4 w5) = false) :
    mealy seedExt x (.seed w0 w1 w2 w3 w4 w5) = (x, ⟨.invalidSeed, 0#32⟩) := by
  simp [mealy, he, hv]

theorem mealy_seed_absent (x : Words) (he : seedExt = false) :
    mealy seedExt x (.seed w0 w1 w2 w3 w4 w5) = (x, ⟨.illegalOp, 0#32⟩) := by
  simp [mealy, he]

/-- A SEED that is absent from the build or has no valid operand leaves the words. -/
theorem mealy_seed_words_of_not_loaded (x : Words)
    (h : seedExt = false ∨ validSeed (seedOperand w0 w1 w2 w3 w4 w5) = false) :
    (mealy seedExt x (.seed w0 w1 w2 w3 w4 w5)).1 = x := by
  cases he : seedExt
  · rw [mealy_seed_absent x rfl]
  · rw [mealy_seed_refused x rfl (h.resolve_left (by simp [he]))]

end

/-- What a command can do to the words (R12): leave them, advance them, or load a valid seed. -/
theorem mealy_words_cases (seedExt : Bool) (x : Words) (i : Instr) :
    (mealy seedExt x i).1 = x ∨ (mealy seedExt x i).1 = x.next ∨ validSeed (mealy seedExt x i).1 = true := by
  cases i with
  | init => exact .inr (.inr validSeed_canonicalSeed)
  | draw => exact .inr (.inl rfl)
  | seed w0 w1 w2 w3 w4 w5 =>
    by_cases hload : seedExt = true ∧ validSeed (seedOperand w0 w1 w2 w3 w4 w5) = true
    · exact .inr (.inr (by rw [mealy_seed_loaded x hload.1 hload.2, hload.2]))
    · rw [not_and_or, Bool.not_eq_true, Bool.not_eq_true] at hload
      exact .inl (mealy_seed_words_of_not_loaded x hload)
  | rsvd10 => exact .inl rfl
  | rsvd11 => exact .inl rfl

theorem validSeed_mealy {x : Words} (seedExt : Bool) (i : Instr) (h : validSeed x = true) :
    validSeed (mealy seedExt x i).1 = true := by
  rcases mealy_words_cases seedExt x i with hkeep | hnext | hvalid
  · rwa [hkeep]
  · rw [hnext]
    exact validSeed_next h
  · exact hvalid

theorem validSeed_mealyRun (seedExt : Bool) (is : List Instr) {x : Words} (h : validSeed x = true) :
    validSeed (mealyRun seedExt is x).1 = true := by
  induction is generalizing x with
  | nil => exact h
  | cons i is ih => exact ih (validSeed_mealy seedExt i h)

/-! ### The outcome of a command and of a step -/

/-- Every command, in every state, answers as the transaction machine does and touches nothing else (R46). -/
theorem exec_eq_mealy (i : Instr) (s : State) :
    exec i s =
      .next { s with words := (mealy s.seedExt s.words i).1, rsp := some (mealy s.seedExt s.words i).2 } := by
  cases i with
  | init => rfl
  | draw => rfl
  | seed w0 w1 w2 w3 w4 w5 =>
    rcases exec_seed_cases w0 w1 w2 w3 w4 w5 s with ⟨he, hv, h⟩ | ⟨he, hv, h⟩ | ⟨he, h⟩
    · rw [h, mealy_seed_loaded s.words he hv]
      rfl
    · rw [h, mealy_seed_refused s.words he hv]
      rfl
    · rw [h, mealy_seed_absent s.words he]
      rfl
  | rsvd10 => rfl
  | rsvd11 => rfl

theorem exec_next_iff (i : Instr) (s t : State) :
    exec i s = .next t ↔
      { s with words := (mealy s.seedExt s.words i).1, rsp := some (mealy s.seedExt s.words i).2 } = t := by
  rw [exec_eq_mealy, Host.Outcome.next.injEq]

/-- What one step can do (R36, R132). -/
theorem step_cases (s : State) :
    (∃ rest, s.host = .reset :: rest ∧ step s = .next (s.applyReset.setHost rest)) ∨
    (∃ f, s.inFlight = some f ∧ (∀ rest, s.host ≠ .reset :: rest) ∧ step s = exec f.instr (s.setInFlight none)) ∨
    (∃ cmd rest, s.inFlight = none ∧ s.host = .command cmd :: rest ∧
      step s = exec (decode s.seedExt cmd) (s.setHost rest)) ∨
    (∃ rest, s.inFlight = none ∧ s.host = .idle :: rest ∧ step s = .next (s.clearResponse.setHost rest)) ∨
    (s.inFlight = none ∧ s.host = [] ∧ step s = .next s.clearResponse) := by
  by_cases hreset : ∃ rest, s.host = .reset :: rest
  · obtain ⟨rest, hh⟩ := hreset
    exact .inl ⟨rest, hh, transaction_reset hh⟩
  · rw [not_exists] at hreset
    rcases hf : s.inFlight with _ | f
    · rcases hh : s.host with _ | ⟨_ | _ | cmd, rest⟩
      · exact .inr (.inr (.inr (.inr ⟨rfl, rfl, transaction_empty hf hh⟩)))
      · exact .inr (.inr (.inr (.inl ⟨rest, rfl, rfl, transaction_idle hf hh⟩)))
      · exact absurd hh (hreset rest)
      · exact .inr (.inr (.inl ⟨cmd, rest, rfl, rfl, transaction_command hf hh⟩))
    · exact .inr (.inl ⟨f, rfl, hreset, transaction_inFlight hf hreset⟩)

/-- What one clock edge can do (R141 to R144). -/
theorem clockEdge_cases (extra : Nat) (pins : InputPins) (s : State) :
    clockEdge extra pins s = .next s.applyReset ∨
    (∃ f, s.inFlight = some f ∧ clockEdge extra pins s = busyEdge f s) ∨
    (s.inFlight = none ∧ clockEdge extra pins s = accept extra (pins.command s.seedExt) s) ∨
    (s.inFlight = none ∧ clockEdge extra pins s = .next s.clearResponse) := by
  cases hr : pins.rst
  · rcases hf : s.inFlight with _ | f
    · cases ha : accepts pins s
      · exact .inr (.inr (.inr ⟨rfl, by simp [clockEdge, hr, hf, ha]⟩))
      · exact .inr (.inr (.inl ⟨rfl, clockEdge_accept extra ha⟩))
    · exact .inr (.inl ⟨f, rfl, clockEdge_busy extra hr hf⟩)
  · exact .inl (clockEdge_reset extra s hr)

/-! ### The invariant of the state -/

/-- The decoder gives only commands of the build (R54). -/
theorem wellFormed_decode (seedExt : Bool) (cmd : CommandWord) : WellFormed seedExt (decode seedExt cmd) = true := by
  unfold decode
  split_ifs with h0 h1 h2 he
  · rfl
  · rfl
  · exact he
  · simp [WellFormed, he]
  · rfl

theorem State.inv_iff (s : State) :
    s.Inv ↔ validSeed s.words = true ∧ ∀ f ∈ s.inFlight, WellFormed s.seedExt f.instr = true := by
  rw [validSeed_iff_inRange_not_degenerate, and_assoc]

theorem State.Inv.exec {i : Instr} {s t : State} (hs : s.Inv) (h : exec i s = .next t) : t.Inv := by
  rw [exec_next_iff] at h
  subst h
  rw [State.inv_iff] at hs ⊢
  exact ⟨validSeed_mealy s.seedExt i hs.1, hs.2⟩

theorem State.Inv.applyReset (s : State) : s.applyReset.Inv := by
  rw [State.inv_iff]
  exact ⟨validSeed_canonicalSeed, by simp⟩

theorem State.Inv.setHost {s : State} (hs : s.Inv) (as : List HostAction) : (s.setHost as).Inv := hs

theorem State.Inv.clearResponse {s : State} (hs : s.Inv) : s.clearResponse.Inv := hs

theorem State.Inv.setInFlight_none {s : State} (hs : s.Inv) : (s.setInFlight none).Inv :=
  ⟨hs.1, hs.2.1, by simp⟩

theorem State.Inv.setInFlight_some {s : State} (hs : s.Inv) {i : Instr} (hi : WellFormed s.seedExt i = true)
    (n : Nat) : (s.setInFlight (some ⟨i, n⟩)).Inv :=
  ⟨hs.1, hs.2.1, by simpa using hi⟩

theorem State.Inv.accept {extra : Nat} {i : Instr} {s t : State} (hs : s.Inv) (hi : WellFormed s.seedExt i = true)
    (h : accept extra i s = .next t) : t.Inv := by
  cases extra with
  | zero => exact hs.exec h
  | succ n =>
    obtain rfl := Host.Outcome.next.inj h
    exact hs.clearResponse.setInFlight_some hi n

theorem State.Inv.busyEdge {f : InFlight} {s t : State} (hs : s.Inv) (hf : s.inFlight = some f)
    (h : busyEdge f s = .next t) : t.Inv := by
  obtain ⟨i, _ | n⟩ := f
  · exact hs.setInFlight_none.exec h
  · obtain rfl := Host.Outcome.next.inj h
    exact hs.clearResponse.setInFlight_some (hs.2.2 _ hf) n

/-! ### The obligations about the words -/

/-- Settles O24: a DRAW moves words and writes reduced values, and every command keeps a valid seed valid. -/
theorem wordsStayInRange : Obligations.WordsStayInRange := by
  refine ⟨by decide, fun x h => h.next, ?accepted, ?runs, ?arbitrary⟩
  case accepted =>
    intro s t w0 w1 w2 w3 w4 w5 h hok
    rcases exec_seed_cases w0 w1 w2 w3 w4 w5 s with ⟨-, hv, he⟩ | ⟨-, -, he⟩ | ⟨-, he⟩
    · obtain rfl := Host.Outcome.next.inj (he.symm.trans h)
      exact ((validSeed_iff _).mp hv).1
    · obtain rfl := Host.Outcome.next.inj (he.symm.trans h)
      simp at hok
    · obtain rfl := Host.Outcome.next.inj (he.symm.trans h)
      simp at hok
  case runs =>
    intro seedExt is
    exact ((validSeed_iff _).mp (validSeed_mealyRun seedExt is validSeed_canonicalSeed)).1
  case arbitrary =>
    intro x
    exact ⟨⟨x.r1_lt, x.r2_lt⟩, ⟨x.r1_lt, x.next.r1_lt, x.r2_lt, x.next.r2_lt⟩,
      ⟨x.r1_lt, x.next.r1_lt, x.next.next.r1_lt⟩, x.r2_lt, x.next.r2_lt, x.next.next.r2_lt⟩

/-- Settles O25: the all-zero register is a fixed point because its multiply-accumulate is 0, and the only way into it
from a register in range is through itself because the modulus and the coefficient of the oldest word are coprime. -/
theorem wordsNeverDegenerate : Obligations.WordsNeverDegenerate := by
  have hrun : ∀ (seedExt : Bool) (is : List Instr) (x : Words), validSeed x = true →
      ¬ (mealyRun seedExt is x).1.Degenerate := fun seedExt is x hx =>
    ((validSeed_iff_inRange_not_degenerate _).mp (validSeed_mealyRun seedExt is hx)).2
  exact ⟨fun x h => ⟨h.p1_eq, h.r1_eq, h.next⟩, fun x h => ⟨h.p2_eq, h.r2_eq, h.next⟩,
    fun x h0 _ _ hz hn => hz (Words.zeroA_of_next h0 hn), fun x h0 _ _ hz hn => hz (Words.zeroB_of_next h0 hn),
    fun seedExt is => hrun seedExt is canonicalSeed validSeed_canonicalSeed, hrun⟩

/-- Settles O28: every step is a reset, a command executed, or leaves the words. -/
theorem stepKeepsTheInvariant : Obligations.StepKeepsTheInvariant := by
  intro s t hs h
  rcases step_cases s with ⟨rest, -, he⟩ | ⟨f, -, -, he⟩ | ⟨cmd, rest, -, -, he⟩ | ⟨rest, -, -, he⟩ | ⟨-, -, he⟩
  · obtain rfl := Host.Outcome.next.inj (he.symm.trans h)
    exact (State.Inv.applyReset s).setHost rest
  · exact hs.setInFlight_none.exec (he.symm.trans h)
  · exact (hs.setHost rest).exec (he.symm.trans h)
  · obtain rfl := Host.Outcome.next.inj (he.symm.trans h)
    exact hs.clearResponse.setHost rest
  · obtain rfl := Host.Outcome.next.inj (he.symm.trans h)
    exact hs.clearResponse

/-- Settles O29: an accepted command is a decoded one, so one of the build, and is held as it is until it completes. -/
theorem clockEdgeKeepsTheInvariant : Obligations.ClockEdgeKeepsTheInvariant := by
  intro extra pins s t hs h
  rcases clockEdge_cases extra pins s with he | ⟨f, hf, he⟩ | ⟨-, he⟩ | ⟨-, he⟩
  · obtain rfl := Host.Outcome.next.inj (he.symm.trans h)
    exact State.Inv.applyReset s
  · exact hs.busyEdge hf (he.symm.trans h)
  · exact hs.accept (wellFormed_decode _ _) (he.symm.trans h)
  · obtain rfl := Host.Outcome.next.inj (he.symm.trans h)
    exact hs.clearResponse

/-- A SEED with a degenerate operand is refused (R102). -/
theorem not_validSeed_of_degenerate {x : Words} (h : x.Degenerate) : validSeed x = false := by
  rw [Bool.eq_false_iff, ne_eq, validSeed_iff_inRange_not_degenerate]
  exact fun hv => hv.2 h

/-- Settles O26: DRAW has one equation for every state, and a degenerate operand is no valid seed. -/
theorem degenerateStateIsNoFault : Obligations.DegenerateStateIsNoFault := by
  refine ⟨fun s h => ⟨exec_eq_mealy .draw s, h.next⟩, ?commands, ?refused⟩
  case commands =>
    intro i s t hr hd h
    rw [exec_next_iff] at h
    subst h
    have hs := (validSeed_iff_inRange_not_degenerate s.words).mpr ⟨hr, hd⟩
    exact ((validSeed_iff_inRange_not_degenerate _).mp (validSeed_mealy s.seedExt i hs)).2
  case refused =>
    intro w0 w1 w2 w3 w4 w5 s hext hdeg
    have hv : validSeed (seedOperand w0 w1 w2 w3 w4 w5) = false := not_validSeed_of_degenerate hdeg
    rw [exec_eq_mealy, mealy_seed_refused s.words hext hv]
    rfl

/-- Settles O22: `p1`, `p2` and so the reduced values read neither `a2` nor `b1`. -/
theorem drawOnlyMovesNewestAAndMiddleB : Obligations.DrawOnlyMovesNewestAAndMiddleB :=
  fun _ _ _ => ⟨rfl, rfl⟩

/-! ### Frame, noninterference and reset -/

/-- Settles O41: the frame is that of the transaction machine, and its last three kinds of command return the words
they are given. -/
theorem commandFrame : Obligations.CommandFrame := by
  intro i s t h
  rw [exec_next_iff] at h
  subst h
  refine ⟨rfl, rfl, rfl, fun hinit hdraw hseed => ?_⟩
  cases i with
  | init => exact absurd rfl hinit
  | draw => exact absurd rfl hdraw
  | seed w0 w1 w2 w3 w4 w5 => exact mealy_seed_words_of_not_loaded s.words (hseed _ _ _ _ _ _ rfl)
  | rsvd10 => rfl
  | rsvd11 => rfl

/-- A command overwrites the response presented before it and reads none. -/
theorem exec_clearResponse (i : Instr) (s : State) : exec i s.clearResponse = exec i s := by
  rw [exec_eq_mealy, exec_eq_mealy]
  rfl

/-- A step has no use of the response presented before it (R22). -/
theorem step_clearResponse (s : State) : step s.clearResponse = step s := by
  rcases step_cases s with
    ⟨rest, hh, h⟩ | ⟨f, hf, hh, h⟩ | ⟨cmd, rest, hf, hh, h⟩ | ⟨rest, hf, hh, h⟩ | ⟨hf, hh, h⟩ <;> rw [h]
  · exact transaction_reset hh
  · exact (transaction_inFlight hf hh).trans (exec_clearResponse f.instr (s.setInFlight none))
  · exact (transaction_command hf hh).trans (exec_clearResponse (decode s.seedExt cmd) (s.setHost rest))
  · exact transaction_idle hf hh
  · exact transaction_empty hf hh

/-- Settles O43: two such states differ in the response presented alone, so they take the very same first step. -/
theorem responsesDependOnTheCommandsAlone : Obligations.ResponsesDependOnTheCommandsAlone := by
  intro k s s' hwords hext hflight hhost
  have hclear : s.clearResponse = s'.clearResponse := by
    simp [State.clearResponse, hwords, hext, hflight, hhost]
  have hstep : step s = step s' := by
    rw [← step_clearResponse s, hclear, step_clearResponse]
  cases k with
  | zero => rfl
  | succ k => rw [stepReplies, stepReplies, hstep]

/-- Every step answers a next state (R46, R147). -/
theorem exists_step_next (s : State) : ∃ t, step s = .next t := by
  rcases step_cases s with ⟨rest, -, h⟩ | ⟨f, -, -, h⟩ | ⟨cmd, rest, -, -, h⟩ | ⟨rest, -, -, h⟩ | ⟨-, -, h⟩
  · exact ⟨_, h⟩
  · exact ⟨_, h.trans (exec_eq_mealy _ _)⟩
  · exact ⟨_, h.trans (exec_eq_mealy _ _)⟩
  · exact ⟨_, h⟩
  · exact ⟨_, h⟩

/-- With the step as a function of the state, stepping the engine at place `k` applies it at that place alone. -/
theorem stepAt_eq_modify {next : State → State} (hnext : ∀ s, step s = .next (next s)) (k : Nat)
    (states : List State) : stepAt k states = .next (states.modify k next) := by
  unfold stepAt
  rw [List.modify_eq_set_getElem?]
  cases hk : states[k]? with
  | none => rfl
  | some s => simp [hnext s]

/-- Settles O54: a step changes one place of the list, and changes of different places commute. -/
theorem instancesShareNothing : Obligations.InstancesShareNothing := by
  choose next hnext using exists_step_next
  refine ⟨?alone, ?commute⟩
  case alone =>
    intro k states s hs
    refine ⟨next s, states.modify k next, hnext s, stepAt_eq_modify hnext k states, ?_, List.length_modify .., ?_⟩
    · simp [hs]
    · exact fun j hj => List.getElem?_modify_ne next states hj.symm
  case commute =>
    intro j k states a b a' b' hjk hja hkb hka hjb
    simp only [stepAt_eq_modify hnext, Host.Outcome.next.injEq] at hja hkb hka hjb
    subst hja hkb hka hjb
    exact List.modify_modify_ne next next states hjk

/-- Settles O44: the reset state is written out field by field, and no response makes `rsp_valid` 0. -/
theorem resetValues : Obligations.ResetValues := ⟨rfl, rfl, rfl, rfl, fun _ _ => rfl⟩

/-- The output ports carry the response presented and the readiness, neither of which is a state word (R140). -/
theorem State.outputs_setWords (st : BitVec 2) (d : Word) (x : Words) (s : State) :
    (s.setWords x).outputs st d = s.outputs st d := rfl

/-- Settles O53: replacing the words is `State.setWords`. -/
theorem hostCannotReadTheWords : Obligations.HostCannotReadTheWords := State.outputs_setWords

end Sys2Proof.Machine
end

