-- ==== Sys2Proof/Proofs/Encoding.lean ====
section
/-! PROOFS. The family 30_encoding: the place of every field of a command word and of a response (R33, R47, R49), the
opcode map (R48), decode after encode (R59), and the answers of the commands that the encoding names (R46, R53).

Every field is a digit of the word's number, so the lemmas about fields are stated with `toNat`. -/

namespace Sys2Proof.Machine

open Sys2Proof.Laws

/-! ### The fields of a command word (R47) -/

theorem toNat_opField (cmd : CommandWord) : (opField cmd).toNat = cmd.toNat % 4 := by
  simp [opField]

theorem toNat_seedField (cmd : CommandWord) (i : Nat) :
    (seedField cmd i).toNat = cmd.toNat / 2 ^ (32 * i + 2) % 2 ^ 32 := by
  rw [seedField, BitVec.extractLsb'_toNat, Nat.shiftRight_eq_div_pow]

/-- A concatenation in numbers: the upper part counts multiples of the lower part's size. -/
theorem toNat_append_eq_mul_add {v w : Nat} (x : BitVec v) (y : BitVec w) :
    (x ++ y).toNat = 2 ^ w * x.toNat + y.toNat := by
  rw [BitVec.toNat_append, ← Nat.shiftLeft_add_eq_or_of_lt y.isLt, Nat.shiftLeft_eq, Nat.mul_comm]

theorem toNat_commandWord (op : Opcode) (seed : SeedBits) :
    (commandWord op seed).toNat = 4 * seed.toNat + op.toNat :=
  toNat_append_eq_mul_add seed op

theorem toNat_seedField_commandWord (op : Opcode) (seed : SeedBits) (i : Nat) :
    (seedField (commandWord op seed) i).toNat = seed.toNat / 2 ^ (32 * i) % 2 ^ 32 := by
  have hshift : (4 * seed.toNat + op.toNat) / 2 ^ 2 = seed.toNat := by omega
  rw [toNat_seedField, toNat_commandWord, Nat.add_comm (32 * i), Nat.pow_add, ← Nat.div_div_eq_div_mul, hshift]

theorem toNat_packSeed (w0 w1 w2 w3 w4 w5 : Word) :
    (packSeed w0 w1 w2 w3 w4 w5).toNat =
      w0.toNat + 2 ^ 32 * w1.toNat + 2 ^ 64 * w2.toNat + 2 ^ 96 * w3.toNat + 2 ^ 128 * w4.toNat +
        2 ^ 160 * w5.toNat := by
  simp only [packSeed, toNat_append_eq_mul_add]
  omega

/-- The seed fields of the word of a SEED are its operands: the digits of the packed seed to the base 2^32. -/
theorem seedField_encode_seed (w0 w1 w2 w3 w4 w5 : Word) :
    seedField (encode (.seed w0 w1 w2 w3 w4 w5)) 0 = w0 ∧ seedField (encode (.seed w0 w1 w2 w3 w4 w5)) 1 = w1 ∧
    seedField (encode (.seed w0 w1 w2 w3 w4 w5)) 2 = w2 ∧ seedField (encode (.seed w0 w1 w2 w3 w4 w5)) 3 = w3 ∧
    seedField (encode (.seed w0 w1 w2 w3 w4 w5)) 4 = w4 ∧ seedField (encode (.seed w0 w1 w2 w3 w4 w5)) 5 = w5 := by
  simp only [← BitVec.toNat_inj, encode, toNat_seedField_commandWord, Instr.seedBits, toNat_packSeed]
  omega

/-! ### The opcode map (R48) -/
section
variable {seedExt : Bool} {cmd : CommandWord}

theorem decode_of_op_init (h : opField cmd = 0b00#2) : decode seedExt cmd = .init := by
  simp [decode, h]

theorem decode_of_op_draw (h : opField cmd = 0b01#2) : decode seedExt cmd = .draw := by
  simp [decode, h]

theorem decode_of_op_seed (h : opField cmd = 0b10#2) :
    decode true cmd = .seed (seedField cmd 0) (seedField cmd 1) (seedField cmd 2)
      (seedField cmd 3) (seedField cmd 4) (seedField cmd 5) := by
  simp [decode, h]

theorem decode_of_op_rsvd10 (h : opField cmd = 0b10#2) : decode false cmd = .rsvd10 := by
  simp [decode, h]

theorem decode_of_op_rsvd11 (h : opField cmd = 0b11#2) : decode seedExt cmd = .rsvd11 := by
  simp [decode, h]

end

theorem opcode_cases (op : Opcode) : op = 0b00#2 ∨ op = 0b01#2 ∨ op = 0b10#2 ∨ op = 0b11#2 := by
  decide +revert

/-- The seed fields of a command that is not SEED are ignored (R52). -/
theorem decode_eq_of_op_eq (seedExt : Bool) {cmd cmd' : CommandWord} (hop : opField cmd = opField cmd')
    (hseed : opField cmd ≠ 0b10#2) : decode seedExt cmd = decode seedExt cmd' := by
  rcases opcode_cases (opField cmd) with h | h | h | h
  · rw [decode_of_op_init h, decode_of_op_init (hop ▸ h)]
  · rw [decode_of_op_draw h, decode_of_op_draw (hop ▸ h)]
  · exact absurd h hseed
  · rw [decode_of_op_rsvd11 h, decode_of_op_rsvd11 (hop ▸ h)]

/-- Settles O4: the decoder's equation for each of the four codes. -/
theorem opcodeSelectsTheOperation : Obligations.OpcodeSelectsTheOperation := by
  intro seedExt cmd
  refine ⟨decode_of_op_init, decode_of_op_draw, ?reserved, ?seed, decode_of_op_rsvd11⟩
  case reserved =>
    rintro h rfl
    exact decode_of_op_rsvd10 h
  case seed =>
    rintro h rfl
    exact ⟨_, _, _, _, _, _, decode_of_op_seed h⟩

/-! ### Decode and encode (R47, R52, R59) -/

/-- Settles O3: each field is a digit of the command word's number. -/
theorem commandFieldsStandWhereTheFormatPutsThem : Obligations.CommandFieldsStandWhereTheFormatPutsThem := by
  refine ⟨⟨rfl, rfl⟩, toNat_opField, fun cmd i _ => toNat_seedField cmd i, ?ports, ?operands, ?packing⟩
  case ports =>
    exact fun op seed =>
      ⟨opField_commandWord op seed, toNat_commandWord op seed, fun i _ => toNat_seedField_commandWord op seed i⟩
  case operands =>
    exact fun _ h => decode_of_op_seed h
  case packing =>
    intro w0 w1 w2 w3 w4 w5
    have hop : (Instr.seed w0 w1 w2 w3 w4 w5).op.toNat = 2 := rfl
    rw [encode, toNat_commandWord, Instr.seedBits, toNat_packSeed, hop]
    omega

theorem opField_encode (i : Instr) : opField (encode i) = i.op := opField_commandWord i.op i.seedBits

/-- Settles O2: the operation code selects the constructor, and the fields of a SEED's word are its operands. -/
theorem decodeOfEncodeIsTheCommand : Obligations.DecodeOfEncodeIsTheCommand := by
  intro seedExt i hi
  have hop := opField_encode i
  cases i with
  | init => exact decode_of_op_init hop
  | draw => exact decode_of_op_draw hop
  | seed w0 w1 w2 w3 w4 w5 =>
    obtain rfl : seedExt = true := hi
    obtain ⟨h0, h1, h2, h3, h4, h5⟩ := seedField_encode_seed w0 w1 w2 w3 w4 w5
    rw [decode_of_op_seed hop, h0, h1, h2, h3, h4, h5]
  | rsvd10 =>
    obtain rfl : seedExt = false := by simpa [WellFormed] using hi
    exact decode_of_op_rsvd10 hop
  | rsvd11 => exact decode_of_op_rsvd11 hop

/-- Settles O6: a command of the build is decoded from its own encoding, and the decoder gives no other. -/
theorem decodedCommandsAreThoseOfTheBuild : Obligations.DecodedCommandsAreThoseOfTheBuild := by
  intro seedExt i
  constructor
  · exact fun hi => ⟨encode i, decodeOfEncodeIsTheCommand seedExt i hi⟩
  · rintro ⟨cmd, rfl⟩
    exact wellFormed_decode seedExt cmd

/-- An edge reads `cmd_op` and `cmd_seed` only through the command that they carry (R141). -/
theorem clockEdge_eq_of_command_eq (extra : Nat) {pins pins' : InputPins} {s : State} (hrst : pins.rst = pins'.rst)
    (hvalid : pins.cmdValid = pins'.cmdValid) (hcmd : pins.command s.seedExt = pins'.command s.seedExt) :
    clockEdge extra pins s = clockEdge extra pins' s := by
  have haccepts : accepts pins s = accepts pins' s := by rw [accepts, accepts, hrst, hvalid]
  rw [clockEdge, clockEdge, hrst, haccepts, hcmd]

/-- Settles O5: pins that differ in ignored seed fields carry the same command. -/
theorem ignoredSeedFieldsHaveNoEffect : Obligations.IgnoredSeedFieldsHaveNoEffect := by
  refine ⟨fun cmd cmd' => decode_eq_of_op_eq true, fun extra pins seed s _ hop => ?_⟩
  have hcmd : InputPins.command s.seedExt { pins with cmdSeed := seed } = pins.command s.seedExt := by
    apply decode_eq_of_op_eq s.seedExt
    · rw [opField_commandWord, opField_commandWord]
    · rwa [opField_commandWord]
  exact clockEdge_eq_of_command_eq extra rfl rfl hcmd

/-! ### The answers of the commands (R46, R49, R53) -/

/-- Settles O10: `exec` follows the transaction machine in each of its arms. -/
theorem everyCommandAnswersAsTheTableSays : Obligations.EveryCommandAnswersAsTheTableSays := exec_eq_mealy

theorem exists_busyEdge_next (f : InFlight) (s : State) : ∃ t, busyEdge f s = .next t := by
  obtain ⟨i, _ | n⟩ := f
  · exact ⟨_, exec_eq_mealy i (s.setInFlight none)⟩
  · exact ⟨_, busyEdge_succ i n s⟩

theorem exists_accept_next (extra : Nat) (i : Instr) (s : State) : ∃ t, accept extra i s = .next t := by
  cases extra with
  | zero => exact ⟨_, exec_eq_mealy i s⟩
  | succ n => exact ⟨_, accept_succ n i s⟩

/-- Every clock edge answers a next state (R147). -/
theorem exists_clockEdge_next (extra : Nat) (pins : InputPins) (s : State) : ∃ t, clockEdge extra pins s = .next t := by
  rcases clockEdge_cases extra pins s with h | ⟨f, -, h⟩ | ⟨-, h⟩ | ⟨-, h⟩
  · exact ⟨_, h⟩
  · exact h ▸ exists_busyEdge_next f s
  · exact h ▸ exists_accept_next extra (pins.command s.seedExt) s
  · exact ⟨_, h⟩

/-- Settles O11: no case of a step and none of a clock edge stops. -/
theorem theEngineNeverStops : Obligations.TheEngineNeverStops := ⟨exists_step_next, exists_clockEdge_next⟩

/-- Settles O37: the reserved codes decode to commands that only raise, and a command reads no response. -/
theorem reservedCommandsAnswerIllegalOp : Obligations.ReservedCommandsAnswerIllegalOp := by
  refine ⟨fun _ _ => decode_of_op_rsvd11, fun _ => decode_of_op_rsvd10, fun s => ⟨rfl, rfl, fun i => ?_⟩⟩
  calc exec i { s with rsp := some ⟨.illegalOp, 0x00000000⟩ }
      = exec i s.clearResponse := (exec_clearResponse i (s.raise .illegalOp)).symm
    _ = exec i s := exec_clearResponse i s

theorem toNat_responseBits (r : Response) : r.bits.toNat = 4 * r.data.toNat + r.status.code.toNat :=
  toNat_append_eq_mul_add r.data r.status.code

/-- Only a DRAW answers with data (R49). -/
theorem mealy_data_of_ne_draw (seedExt : Bool) (x : Words) {i : Instr} (hi : i ≠ .draw) :
    (mealy seedExt x i).2.data = 0#32 := by
  cases i with
  | init => rfl
  | draw => exact absurd rfl hi
  | seed w0 w1 w2 w3 w4 w5 =>
    cases he : seedExt
    · rw [mealy_seed_absent x rfl]
    · cases hv : validSeed (seedOperand w0 w1 w2 w3 w4 w5)
      · rw [mealy_seed_refused x rfl hv]
      · rw [mealy_seed_loaded x rfl hv]
  | rsvd10 => rfl
  | rsvd11 => rfl

/-- Settles O40: the fields of the 34 bits are digits of their number, and the data is that of the transaction
machine's response. -/
theorem responseFormat : Obligations.ResponseFormat := by
  refine ⟨fun r => ⟨toNat_responseBits r, ?status, ?data, ?code⟩, ?answers⟩
  case status =>
    apply BitVec.eq_of_toNat_eq
    rw [BitVec.extractLsb'_toNat, toNat_responseBits, Nat.shiftRight_zero]
    omega
  case data =>
    apply BitVec.eq_of_toNat_eq
    rw [BitVec.extractLsb'_toNat, toNat_responseBits, Nat.shiftRight_eq_div_pow]
    omega
  case code => cases r.status <;> rfl
  case answers =>
    intro i s
    refine ⟨_, _, exec_eq_mealy i s, rfl, ?_⟩
    by_cases hi : i = .draw
    · subst hi
      exact .inl ⟨rfl, rfl⟩
    · exact .inr ⟨hi, mealy_data_of_ne_draw s.seedExt s.words hi⟩

end Sys2Proof.Machine
end

/-! PROOFS. The family 40_init: what INIT writes and answers (R66), and that the sequence after it is the one that
follows reset (R67). -/

namespace Sys2Proof.Machine

/-! ### The canonical seed (R66, R130) -/

theorem canonicalSeed_eq_words : canonicalSeed = ⟨12345, 12345, 12345, 12345, 12345, 12345⟩ := rfl

@[simp] theorem State.reset_words : State.reset.words = canonicalSeed := rfl

theorem inRange_canonicalSeed : canonicalSeed.InRange :=
  ((validSeed_iff_inRange_not_degenerate _).mp validSeed_canonicalSeed).1

theorem not_degenerate_canonicalSeed : ¬ canonicalSeed.Degenerate :=
  ((validSeed_iff_inRange_not_degenerate _).mp validSeed_canonicalSeed).2

/-! ### INIT (R66, R67) -/

@[simp] theorem mealy_init (seedExt : Bool) (x : Words) :
    mealy seedExt x .init = (canonicalSeed, ⟨.ok, 0#32⟩) := rfl

/-- A run begins with its first command, and the other commands run from the words after it (R36). -/
theorem mealyRun_cons (seedExt : Bool) (i : Instr) (is : List Instr) (x : Words) :
    mealyRun seedExt (i :: is) x =
      ((mealyRun seedExt is (mealy seedExt x i).1).1,
        (mealy seedExt x i).2 :: (mealyRun seedExt is (mealy seedExt x i).1).2) := rfl

theorem words_of_exec_init {s t : State} (h : exec .init s = .next t) : t.words = canonicalSeed := by
  rw [exec_init, Host.Outcome.next.injEq] at h
  rw [← h, State.respond_words, State.setWords_words]

/-- INIT is idempotent: the second one writes the words and the response that stand there already. -/
theorem exec_init_of_exec_init {s t : State} (h : exec .init s = .next t) : exec .init t = .next t := by
  rw [exec_init, Host.Outcome.next.injEq] at h
  rw [exec_init, ← h]
  rfl

/-- Settles O12: the decoder's equation for 2'b00, and INIT's arm with the canonical seed written out. -/
theorem initLoadsTheCanonicalSeed : Obligations.InitLoadsTheCanonicalSeed := by
  refine ⟨fun _ _ => decode_of_op_init, fun s => ?_⟩
  rw [exec_init, canonicalSeed_eq_words]
  rfl

/-- Settles O13: INIT always ends in the canonical seed, which is a valid seed and the words of reset. -/
theorem initRestartsTheSequence : Obligations.InitRestartsTheSequence := by
  refine ⟨fun s => ⟨_, exec_init s, ?idempotent, ?restart, ?range, ?nondegenerate⟩, ?forgets, ?responses⟩
  case idempotent => exact exec_init_of_exec_init (exec_init s)
  case restart => rw [words_of_exec_init (exec_init s), State.reset_words]
  case range =>
    rw [words_of_exec_init (exec_init s)]
    exact inRange_canonicalSeed
  case nondegenerate =>
    rw [words_of_exec_init (exec_init s)]
    exact not_degenerate_canonicalSeed
  case forgets =>
    intro s s'
    refine ⟨_, _, exec_init s, exec_init s', ?_⟩
    rw [words_of_exec_init (exec_init s), words_of_exec_init (exec_init s')]
  case responses =>
    intro seedExt is x
    rw [mealyRun_cons, mealy_init, State.reset_words]
    rfl

end Sys2Proof.Machine

/-! PROOFS. The family 41_draw: the reduction procedure (R75, R76), the words and the output of a DRAW (R71 to R82), the
bounds of its intermediates (R83), its injectivity on words in range (R86 item 6), and its worked example (R90). -/

namespace Sys2Proof.Machine

/-! ### The truncating remainder and the quotient (R75, R76) -/

theorem tdiv_mul_add_truncRem (p : Int) (m : Nat) : tdiv p m * m + truncRem p m = p := by
  unfold truncRem
  omega

theorem truncRem_eq_emod_of_nonneg_or_dvd {p : Int} {m : Nat} (h : 0 ≤ p ∨ (m : Int) ∣ p) :
    truncRem p m = p % m := by
  rw [truncRem_eq_tmod, Int.tmod_eq_emod, if_pos h, Int.ofNat_zero, sub_zero]

theorem truncRem_eq_emod_sub_of_neg {p : Int} {m : Nat} (hp : p < 0) (hdvd : ¬ (m : Int) ∣ p) :
    truncRem p m = p % m - m := by
  have h : ¬ (0 ≤ p ∨ (m : Int) ∣ p) := by simp [hp, hdvd]
  rw [truncRem_eq_tmod, Int.tmod_eq_emod, if_neg h, Int.natAbs_natCast]

theorem truncRem_mem_Ioo (p : Int) {m : Nat} (hm : 0 < m) : truncRem p m ∈ Set.Ioo (-(m : Int)) m := by
  have hm' : (0 : Int) < m := by exact_mod_cast hm
  rw [truncRem_eq_tmod]
  exact ⟨Int.lt_tmod_of_pos p hm', Int.tmod_lt_of_pos p hm'⟩

theorem truncRem_nonneg {p : Int} (hp : 0 ≤ p) (m : Nat) : 0 ≤ truncRem p m := by
  rw [truncRem_eq_tmod]
  exact Int.tmod_nonneg _ hp

theorem truncRem_neg_dividend (p : Int) (m : Nat) : truncRem (-p) m = -truncRem p m := by
  rw [truncRem_eq_tmod, truncRem_eq_tmod, Int.neg_tmod]

/-- The condition of the corrective add. -/
theorem truncRem_neg_iff (p : Int) {m : Nat} (hm : 0 < m) : truncRem p m < 0 ↔ p < 0 ∧ ¬ (m : Int) ∣ p := by
  have hnonneg : 0 ≤ p % (m : Int) := Int.emod_nonneg p (by omega)
  have hlt : p % (m : Int) < m := Int.emod_lt_of_pos p (by omega)
  by_cases h : 0 ≤ p ∨ (m : Int) ∣ p
  · rw [truncRem_eq_emod_of_nonneg_or_dvd h]
    exact iff_of_false hnonneg.not_gt fun ⟨hp, hdvd⟩ => h.elim hp.not_ge hdvd
  · rw [not_or, not_le] at h
    rw [truncRem_eq_emod_sub_of_neg h.1 h.2]
    exact iff_of_true (by omega) h

/-- `t` is 0 or has the sign of `p`: on a negative `p` it is the remainder of `-p` with the other sign. -/
theorem truncRem_sign (p : Int) (m : Nat) :
    truncRem p m = 0 ∨ (0 < truncRem p m ∧ 0 < p) ∨ (truncRem p m < 0 ∧ p < 0) := by
  rcases lt_trichotomy p 0 with hp | rfl | hp
  · have h := truncRem_nonneg (p := -p) (by omega) m
    rw [truncRem_neg_dividend] at h
    omega
  · exact .inl (by rw [truncRem_eq_tmod, Int.zero_tmod])
  · have h := truncRem_nonneg hp.le m
    omega

theorem reduce_eq_ite (p : Int) (m : Nat) :
    reduce p m = if truncRem p m < 0 then truncRem p m + m else truncRem p m := by
  simp only [reduce, needsCorrection_iff]

theorem reduce_of_dvd {p : Int} {m : Nat} (hm : 0 < m) (h : (m : Int) ∣ p) : reduce p m = 0 := by
  rw [reduce_eq_emod p hm, Int.emod_eq_zero_of_dvd h]

/-- Settles O17: `t` is Lean's truncating remainder, which gives its size, its sign and when it is negative. -/
theorem reductionMakesOneCorrectiveAdd : Obligations.ReductionMakesOneCorrectiveAdd :=
  fun p m hm => ⟨rfl, truncRem_mem_Ioo p hm, truncRem_sign p m, reduce_eq_ite p m, truncRem_neg_iff p hm,
    reduce_of_dvd hm⟩

theorem tdiv_eq_fdiv_of_nonneg_or_dvd {p : Int} {m : Nat} (h : 0 ≤ p ∨ (m : Int) ∣ p) :
    tdiv p m = Int.fdiv p m := by
  rw [tdiv_eq_intTdiv, Int.tdiv_eq_ediv, if_pos h, add_zero, Int.fdiv_eq_ediv_of_nonneg p (by omega)]

theorem tdiv_eq_fdiv_add_one {p : Int} {m : Nat} (hm : 0 < m) (hp : p < 0) (hdvd : ¬ (m : Int) ∣ p) :
    tdiv p m = Int.fdiv p m + 1 := by
  have h : ¬ (0 ≤ p ∨ (m : Int) ∣ p) := by simp [hp, hdvd]
  rw [tdiv_eq_intTdiv, Int.tdiv_eq_ediv, if_neg h, Int.sign_natCast_of_ne_zero hm.ne',
    Int.fdiv_eq_ediv_of_nonneg p (by omega)]

theorem dvd_sub_reduce (p : Int) {m : Nat} (hm : 0 < m) : (m : Int) ∣ p - reduce p m := by
  rw [reduce_eq_emod p hm]
  exact Int.dvd_self_sub_emod

theorem eq_reduce_of_dvd_sub {p r : Int} {m : Nat} (hm : 0 < m) (h0 : 0 ≤ r) (hlt : r < m)
    (hdvd : (m : Int) ∣ p - r) : r = reduce p m := by
  rw [reduce_eq_emod p hm, Int.emod_eq_emod_iff_emod_sub_eq_zero.mpr (Int.emod_eq_zero_of_dvd hdvd),
    Int.emod_eq_of_lt h0 hlt]

/-- Settles O18: the reduced value is `p % m`, and truncation toward zero and toward minus infinity differ only on a
negative `p` that is no multiple of `m`. -/
theorem reducedValueIsTheResidue : Obligations.ReducedValueIsTheResidue :=
  fun p _ hm => ⟨reduce_eq_emod p hm, reduce_nonneg p hm, reduce_lt p hm, dvd_sub_reduce p hm,
    fun _ h0 hlt hdvd => eq_reduce_of_dvd_sub hm h0 hlt hdvd, tdiv_eq_fdiv_add_one hm, tdiv_eq_fdiv_of_nonneg_or_dvd⟩

/-! ### The output combine (R81, R82) -/

theorem combine_of_le {r1 r2 : Word} (h : r1.toNat ≤ r2.toNat) : combine r1 r2 = r1.toNat - r2.toNat + m1 :=
  if_pos ((selectsAdd_iff r1 r2).mpr h)

theorem combine_of_lt {r1 r2 : Word} (h : r2.toNat < r1.toNat) : combine r1 r2 = r1.toNat - r2.toNat :=
  if_neg (by simpa using h)

theorem combine_mem_Icc {r1 r2 : Word} (h1 : r1.toNat < m1) (h2 : r2.toNat < m1) :
    combine r1 r2 ∈ Set.Icc 1 (m1 : Int) := by
  rcases le_or_gt r1.toNat r2.toNat with h | h
  · rw [combine_of_le h, Set.mem_Icc]
    omega
  · rw [combine_of_lt h, Set.mem_Icc]
    omega

theorem Words.r2_lt_m1 (x : Words) : x.r2.toNat < m1 := x.r2_lt.trans (by decide)

theorem Words.toNat_output (x : Words) : (x.output.toNat : Int) = combine x.r1 x.r2 := by
  obtain ⟨hpos, hle⟩ := combine_mem_Icc x.r1_lt x.r2_lt_m1
  have hm1 : (m1 : Int) < 2 ^ 32 := by decide
  exact toNat_ofInt_word (by omega) (by omega)

theorem Words.toNat_output_of_le {x : Words} (h : x.r1.toNat ≤ x.r2.toNat) :
    (x.output.toNat : Int) = x.r1.toNat - x.r2.toNat + m1 := by
  rw [x.toNat_output, combine_of_le h]

theorem Words.toNat_output_of_lt {x : Words} (h : x.r2.toNat < x.r1.toNat) :
    (x.output.toNat : Int) = x.r1.toNat - x.r2.toNat := by
  rw [x.toNat_output, combine_of_lt h]

theorem Words.output_mem_Icc (x : Words) : x.output.toNat ∈ Set.Icc 1 m1 := by
  have h := combine_mem_Icc x.r1_lt x.r2_lt_m1
  rw [← x.toNat_output] at h
  exact ⟨by exact_mod_cast h.1, by exact_mod_cast h.2⟩

/-- No output of the subtracting branch reaches `m1`, since `r1` is below it. -/
theorem Words.output_eq_m1_iff (x : Words) : x.output.toNat = m1 ↔ x.r1 = x.r2 := by
  have hr1 := x.r1_lt
  rw [← BitVec.toNat_inj]
  rcases le_or_gt x.r1.toNat x.r2.toNat with h | h
  · have hz := Words.toNat_output_of_le h
    omega
  · have hz := Words.toNat_output_of_lt h
    omega

/-- Settles O21: the two branches of the combine with `r1` below `m1` and `r2` below `m2`; V19 and V20 attain the
ends. -/
theorem drawOutputRange : Obligations.DrawOutputRange := by
  refine ⟨fun x => ⟨x.output_mem_Icc.1, x.output_mem_Icc.2, x.output_eq_m1_iff, ?subtracts, ?adds⟩,
    ⟨⟨1945170933, 0, 1, 0, 1, 0⟩, by decide⟩, ⟨⟨0, 0, 0, 0, 0, 0⟩, by decide⟩⟩
  case subtracts =>
    intro h
    have hz := Words.toNat_output_of_lt h
    have hr1 : x.r1.toNat < 4294967087 := x.r1_lt
    omega
  case adds =>
    intro h
    have hz : (x.output.toNat : Int) = x.r1.toNat - x.r2.toNat + 4294967087 := Words.toNat_output_of_le h
    have hr2 : x.r2.toNat < 4294944443 := x.r2_lt
    omega

/-! ### The words and the response of a DRAW (R71, R77, R80) -/

/-- Adding the modulus does not change the residue. -/
theorem Words.output_sub_emod (x : Words) : ((x.output.toNat : Int) - (x.r1.toNat - x.r2.toNat)) % m1 = 0 := by
  rcases le_or_gt x.r1.toNat x.r2.toNat with h | h
  · rw [Words.toNat_output_of_le h, add_sub_cancel_left, Int.emod_self]
  · rw [Words.toNat_output_of_lt h, sub_self, Int.zero_emod]

theorem Words.toNat_r1_eq_emod (x : Words) : (x.r1.toNat : Int) = x.p1 % m1 := by
  rw [x.toNat_r1, reduce_eq_emod x.p1 (by decide)]

theorem Words.toNat_r2_eq_emod (x : Words) : (x.r2.toNat : Int) = x.p2 % m2 := by
  rw [x.toNat_r2, reduce_eq_emod x.p2 (by decide)]

/-- Settles O19: the words written are the reduced values, and the combine is exact. -/
theorem drawnWordsAreTheResidues : Obligations.DrawnWordsAreTheResidues :=
  fun x => ⟨x.toNat_r1_eq_emod, x.toNat_r2_eq_emod, x.toNat_output, x.output_sub_emod⟩

theorem canonicalSeed_next : canonicalSeed.next = ⟨12345, 12345, 3023790853, 12345, 12345, 2478282264⟩ := by decide

theorem canonicalSeed_output : canonicalSeed.output = 0x2083CCED := by decide

/-- The first DRAW after reset or INIT. -/
theorem exec_draw_of_canonicalSeed {s : State} (h : s.words = canonicalSeed) :
    exec .draw s = .next { s with words := canonicalSeed.next, rsp := some ⟨.ok, 0x2083CCED⟩ } := by
  rw [exec_draw, h, canonicalSeed_output]
  rfl

/-- Settles O15: the closed numbers are evaluated, and the outcome is DRAW's equation at the canonical seed. -/
theorem firstDrawWorkedThrough : Obligations.FirstDrawWorkedThrough :=
  ⟨canonicalSeed_eq_words, by decide, by decide, by decide, by decide, by decide, by decide, by decide, by decide,
    canonicalSeed_output, canonicalSeed_next, fun _ => exec_draw_of_canonicalSeed⟩

/-- R75 with Lean's truncating quotient for `tdiv`. -/
theorem reduce_eq_ite_intTdiv (p : Int) (m : Nat) :
    reduce p m = if p - p.tdiv m * m < 0 then p - p.tdiv m * m + m else p - p.tdiv m * m := by
  rw [reduce_eq_ite, truncRem, tdiv_eq_intTdiv]

theorem Words.toNat_output_eq_ite (x : Words) :
    (x.output.toNat : Int) =
      if x.r1.toNat ≤ x.r2.toNat then (x.r1.toNat : Int) - x.r2.toNat + m1 else (x.r1.toNat : Int) - x.r2.toNat := by
  split_ifs with h
  · exact Words.toNat_output_of_le h
  · exact Words.toNat_output_of_lt (not_le.mp h)

/-- Settles O14: the three words of the procedure are the model's `r1`, `r2` and `output`. -/
theorem drawFollowsTheProcedure : Obligations.DrawFollowsTheProcedure := by
  refine ⟨fun _ _ => decode_of_op_draw,
    fun s => ⟨s.words.r1, s.words.r2, s.words.output, ?r1, ?r2, ?z, ?ranges, ?outcome⟩, ?canonical⟩
  case r1 => exact s.words.toNat_r1.trans (reduce_eq_ite_intTdiv s.words.p1 m1)
  case r2 => exact s.words.toNat_r2.trans (reduce_eq_ite_intTdiv s.words.p2 m2)
  case z => exact s.words.toNat_output_eq_ite
  case ranges => exact ⟨s.words.r1_lt, s.words.r2_lt, s.words.output_mem_Icc⟩
  case outcome => exact exec_draw s
  case canonical =>
    intro s hs
    rw [exec_draw_of_canonicalSeed (hs.trans canonicalSeed_eq_words.symm), canonicalSeed_next]

/-! ### The bounds of the intermediates (R83) -/

theorem coeff_mul_mem_Icc (c : Nat) {w n : Nat} (h : w ≤ n) : (c : Int) * w ∈ Set.Icc 0 ((c * n : Nat) : Int) := by
  constructor
  · positivity
  · exact_mod_cast Nat.mul_le_mul_left c h

theorem sub_mem_Icc_neg {u v : Int} {a b : Nat} (hu : u ∈ Set.Icc 0 (a : Int)) (hv : v ∈ Set.Icc 0 (b : Int)) :
    u - v ∈ Set.Icc (-(b : Int)) a := by
  obtain ⟨hu0, hua⟩ := hu
  obtain ⟨hv0, hvb⟩ := hv
  constructor <;> omega

theorem Words.p1_mem_Icc {x : Words} {n : Nat} (h0 : x.a0.toNat ≤ n) (h1 : x.a1.toNat ≤ n) :
    x.p1 ∈ Set.Icc (-((a13n * n : Nat) : Int)) (a12 * n : Nat) :=
  sub_mem_Icc_neg (coeff_mul_mem_Icc a12 h1) (coeff_mul_mem_Icc a13n h0)

theorem Words.p2_mem_Icc {x : Words} {n : Nat} (h0 : x.b0.toNat ≤ n) (h2 : x.b2.toNat ≤ n) :
    x.p2 ∈ Set.Icc (-((a23n * n : Nat) : Int)) (a21 * n : Nat) :=
  sub_mem_Icc_neg (coeff_mul_mem_Icc a21 h2) (coeff_mul_mem_Icc a23n h0)

/-- The quotient is monotone in the dividend, so it lies between the quotients of the bounds. -/
theorem tdiv_mem_Icc {p : Int} {a b m : Nat} (hm : 0 < m) (hp : p ∈ Set.Icc (-(a : Int)) b) :
    tdiv p m ∈ Set.Icc (-((a / m : Nat) : Int)) ((b / m : Nat) : Int) := by
  have hm' : (0 : Int) < m := by exact_mod_cast hm
  have hlo := Int.tdiv_le_tdiv hm' hp.1
  have hhi := Int.tdiv_le_tdiv hm' hp.2
  rw [Int.neg_tdiv, ← Int.ofNat_tdiv] at hlo
  rw [← Int.ofNat_tdiv] at hhi
  rw [tdiv_eq_intTdiv]
  exact ⟨hlo, hhi⟩

/-- Multiplying back does not pass `p`, since the remainder has the sign of `p`. -/
theorem tdiv_mul_mem_Icc_of_nonneg {p : Int} (hp : 0 ≤ p) (m : Nat) : tdiv p m * m ∈ Set.Icc 0 p := by
  have hsum := tdiv_mul_add_truncRem p m
  have hrem := truncRem_nonneg hp m
  have hmul : 0 ≤ tdiv p m * m := by
    rw [tdiv_of_nonneg hp]
    positivity
  exact ⟨hmul, by omega⟩

theorem tdiv_mul_mem_Icc_of_nonpos {p : Int} (hp : p ≤ 0) (m : Nat) : tdiv p m * m ∈ Set.Icc p 0 := by
  have h := tdiv_mul_mem_Icc_of_nonneg (neg_nonneg.mpr hp) m
  rwa [tdiv_neg_dividend, neg_mul, Set.mem_Icc, neg_le_neg_iff, neg_nonneg, and_comm] at h

theorem abs_tdiv_mul_le (p : Int) (m : Nat) : |tdiv p m * m| ≤ |p| := by
  rcases le_total 0 p with hp | hp
  · obtain ⟨h0, hle⟩ := tdiv_mul_mem_Icc_of_nonneg hp m
    rwa [abs_of_nonneg h0, abs_of_nonneg hp]
  · obtain ⟨hle, h0⟩ := tdiv_mul_mem_Icc_of_nonpos hp m
    rwa [abs_of_nonpos h0, abs_of_nonpos hp, neg_le_neg_iff]

theorem tdiv_mul_mem_Icc {p : Int} {a b : Nat} (m : Nat) (hp : p ∈ Set.Icc (-(a : Int)) b) :
    tdiv p m * m ∈ Set.Icc (-(a : Int)) b := by
  obtain ⟨hlo, hhi⟩ := hp
  rcases le_total 0 p with h | h
  · obtain ⟨h0, hle⟩ := tdiv_mul_mem_Icc_of_nonneg h m
    exact ⟨by omega, hle.trans hhi⟩
  · obtain ⟨hle, h0⟩ := tdiv_mul_mem_Icc_of_nonpos h m
    exact ⟨hlo.trans hle, by omega⟩

/-- The difference of the combine before its add. -/
theorem Words.r1_sub_r2_mem_Icc (x : Words) :
    (x.r1.toNat : Int) - x.r2.toNat ∈ Set.Icc (-4294944442) 4294967086 := by
  have hr1 : x.r1.toNat < 4294967087 := x.r1_lt
  have hr2 : x.r2.toNat < 4294944443 := x.r2_lt
  rw [Set.mem_Icc]
  omega

/-- R83's width: a bound of less than 53 bits in size makes the number a signed 54-bit one. -/
theorem fits_54_bits_of_mem_Icc {v lo hi : Int} (h : v ∈ Set.Icc lo hi) (hlo : -2 ^ 53 ≤ lo := by decide)
    (hhi : hi < 2 ^ 53 := by decide) : -2 ^ 53 ≤ v ∧ v < 2 ^ 53 :=
  ⟨hlo.trans h.1, h.2.trans_lt hhi⟩

/-- Settles O20: both columns of the table are one chain of bounds, from the largest 32-bit word and from the largest
word in range: product, difference of products, quotient. -/
theorem drawIntermediatesAreBounded : Obligations.DrawIntermediatesAreBounded := by
  refine ⟨fun x => ?anyWords, fun x hx => ?inRange⟩
  case anyWords =>
    have hw (w : Word) : w.toNat ≤ 4294967295 := Nat.le_of_lt_succ w.isLt
    have ha1 := coeff_mul_mem_Icc a12 (hw x.a1)
    have ha0 := coeff_mul_mem_Icc a13n (hw x.a0)
    have hp1 := Words.p1_mem_Icc (hw x.a0) (hw x.a1)
    have hk1 := tdiv_mem_Icc (m := m1) (by decide) hp1
    have ht1 := truncRem_mem_Ioo x.p1 (m := m1) (by decide)
    have hb2 := coeff_mul_mem_Icc a21 (hw x.b2)
    have hb0 := coeff_mul_mem_Icc a23n (hw x.b0)
    have hp2 := Words.p2_mem_Icc (hw x.b0) (hw x.b2)
    have hk2 := tdiv_mem_Icc (m := m2) (by decide) hp2
    have ht2 := truncRem_mem_Ioo x.p2 (m := m2) (by decide)
    refine ⟨ha1, ha0, hp1, hk1,
      ⟨fun h => (tdiv_mul_mem_Icc_of_nonneg h m1).1, fun h => (tdiv_mul_mem_Icc_of_nonpos h m1).2,
        abs_tdiv_mul_le x.p1 m1⟩,
      ht1, Nat.le_of_lt_succ x.r1_lt, hb2, hb0, hp2, hk2, ht2, Nat.le_of_lt_succ x.r2_lt, x.r1_sub_r2_mem_Icc,
      x.output_mem_Icc, ?fits⟩
    simp only [List.forall_mem_cons]
    exact ⟨fits_54_bits_of_mem_Icc ha1, fits_54_bits_of_mem_Icc ha0, fits_54_bits_of_mem_Icc hp1,
      fits_54_bits_of_mem_Icc hk1, fits_54_bits_of_mem_Icc (tdiv_mul_mem_Icc m1 hp1),
      fits_54_bits_of_mem_Icc (Set.Ioo_subset_Icc_self ht1), fits_54_bits_of_mem_Icc hb2, fits_54_bits_of_mem_Icc hb0,
      fits_54_bits_of_mem_Icc hp2, fits_54_bits_of_mem_Icc hk2, fits_54_bits_of_mem_Icc (tdiv_mul_mem_Icc m2 hp2),
      fits_54_bits_of_mem_Icc (Set.Ioo_subset_Icc_self ht2), fits_54_bits_of_mem_Icc x.r1_sub_r2_mem_Icc,
      List.forall_mem_nil _⟩
  case inRange =>
    have hA {w : Word} (h : w.toNat < m1) : w.toNat ≤ 4294967086 := Nat.le_of_lt_succ h
    have hB {w : Word} (h : w.toNat < m2) : w.toNat ≤ 4294944442 := Nat.le_of_lt_succ h
    obtain ⟨⟨ha0, ha1, -⟩, hb0, -, hb2⟩ := hx
    have hp1 := Words.p1_mem_Icc (hA ha0) (hA ha1)
    have hp2 := Words.p2_mem_Icc (hB hb0) (hB hb2)
    exact ⟨coeff_mul_mem_Icc a12 (hA ha1), coeff_mul_mem_Icc a13n (hA ha0),
      hp1, tdiv_mem_Icc (by decide) hp1,
      coeff_mul_mem_Icc a21 (hB hb2), coeff_mul_mem_Icc a23n (hB hb0),
      hp2, tdiv_mem_Icc (by decide) hp2⟩

/-! ### Injectivity (R86 item 6) -/

/-- Equal reduced values give congruent dividends, and the coefficient of the oldest word, coprime to `m`, cancels. -/
theorem oldest_eq_of_reduce_eq {c m : Nat} {u : Int} {v w : Word} (hm : 0 < m) (hc : Nat.Coprime m c)
    (hv : v.toNat < m) (hw : w.toNat < m) (h : reduce (u - c * v.toNat) m = reduce (u - c * w.toNat) m) : v = w := by
  rw [reduce_eq_emod _ hm, reduce_eq_emod _ hm] at h
  have hmul : (c : Int) * v.toNat ≡ c * w.toNat [ZMOD m] := by
    simpa only [sub_sub_cancel] using (Int.ModEq.refl u).sub h
  have hmod : v.toNat ≡ w.toNat [MOD m] :=
    Nat.ModEq.cancel_left_of_coprime hc (Int.natCast_modEq_iff.mp (by exact_mod_cast hmul))
  exact BitVec.eq_of_toNat_eq (hmod.eq_of_lt_of_lt hv hw)

/-- Settles O23: the next words hold the four younger words as they were, and the reduced values give back the two
oldest ones. -/
theorem drawIsInjectiveInRange : Obligations.DrawIsInjectiveInRange := by
  intro ⟨a0, a1, a2, b0, b1, b2⟩ ⟨a0', a1', a2', b0', b1', b2'⟩ hx hy h
  obtain ⟨⟨ha0, -⟩, hb0, -⟩ := hx
  obtain ⟨⟨ha0', -⟩, hb0', -⟩ := hy
  have hr1 := congrArg (fun z : Words => (z.a2.toNat : Int)) h
  have hr2 := congrArg (fun z : Words => (z.b2.toNat : Int)) h
  simp only [Words.next_a2, Words.next_b2, Words.toNat_r1, Words.toNat_r2] at hr1 hr2
  obtain ⟨rfl, rfl, -, rfl, rfl, -⟩ := Words.mk.inj h
  obtain rfl := oldest_eq_of_reduce_eq (by decide) coprime_m1_a13n ha0 ha0' hr1
  obtain rfl := oldest_eq_of_reduce_eq (by decide) coprime_m2_a23n hb0 hb0' hr2
  rfl

end Sys2Proof.Machine

/-! PROOFS. The family 42_seed_ext: the validity of a seed (R102), the two outcomes of SEED (R101, R103, R104), and the
build without SEED (R107). -/

namespace Sys2Proof.Machine

/-! ### The validity of a seed (R102) -/

/-- Settles O33: the range of the six words is one clause of `validSeed_iff` for each modulus. -/
theorem validSeedPredicate : Obligations.ValidSeedPredicate := fun _ _ _ _ _ _ => (validSeed_iff _).trans and_assoc

/-- R102 in the negative: a seed is not valid when one of the eight clauses is broken. -/
theorem validSeed_eq_false_iff (w0 w1 w2 w3 w4 w5 : Word) :
    validSeed (seedOperand w0 w1 w2 w3 w4 w5) = false ↔
      4294967087 ≤ w0.toNat ∨ 4294967087 ≤ w1.toNat ∨ 4294967087 ≤ w2.toNat ∨
        4294944443 ≤ w3.toNat ∨ 4294944443 ≤ w4.toNat ∨ 4294944443 ≤ w5.toNat ∨
        (w0 = 0 ∧ w1 = 0 ∧ w2 = 0) ∨ (w3 = 0 ∧ w4 = 0 ∧ w5 = 0) := by
  rw [Bool.eq_false_iff, ne_eq, validSeedPredicate]
  simp only [not_and_or, not_or, not_not, not_lt, or_assoc]

/-! ### The outcomes of SEED (R101, R103, R104) -/

section
variable {s : State} {w0 w1 w2 w3 w4 w5 : Word}

theorem exec_seed_loaded (he : s.seedExt = true) (hv : validSeed (seedOperand w0 w1 w2 w3 w4 w5) = true) :
    exec (.seed w0 w1 w2 w3 w4 w5) s =
      .next { s with words := ⟨w0, w1, w2, w3, w4, w5⟩, rsp := some ⟨.ok, 0⟩ } := by
  rw [exec_eq_mealy, mealy_seed_loaded s.words he hv]
  rfl

theorem exec_seed_refused (he : s.seedExt = true) (hv : validSeed (seedOperand w0 w1 w2 w3 w4 w5) = false) :
    exec (.seed w0 w1 w2 w3 w4 w5) s = .next { s with rsp := some ⟨.invalidSeed, 0⟩ } := by
  rw [exec_eq_mealy, mealy_seed_refused s.words he hv]
  rfl

theorem exec_seed_absent (he : s.seedExt = false) :
    exec (.seed w0 w1 w2 w3 w4 w5) s = .next { s with rsp := some ⟨.illegalOp, 0⟩ } := by
  rw [exec_eq_mealy, mealy_seed_absent s.words he]
  rfl

end

/-- Settles O31: the eight clauses are the validity predicate, and a valid seed is loaded. -/
theorem validSeedIsLoaded : Obligations.ValidSeedIsLoaded :=
  fun _ w0 w1 w2 w3 w4 w5 he ha hb hza hzb =>
    exec_seed_loaded he ((validSeedPredicate w0 w1 w2 w3 w4 w5).mpr ⟨ha, hb, hza, hzb⟩)

/-- Settles O32: a broken clause makes the seed not valid, and SEED looks at nothing else. -/
theorem seedNotValidIsRefused : Obligations.SeedNotValidIsRefused :=
  fun _ w0 w1 w2 w3 w4 w5 he h => exec_seed_refused he ((validSeed_eq_false_iff w0 w1 w2 w3 w4 w5).mpr h)

/-- Settles O36: the third case of SEED. -/
theorem seedWithoutSeedExtAnswersIllegalOp : Obligations.SeedWithoutSeedExtAnswersIllegalOp :=
  fun _ _ _ _ _ _ _ => exec_seed_absent

/-- The DRAW of the example of R101. -/
theorem exec_draw_of_words_one_to_six {s : State} (h : s.words = ⟨1, 2, 3, 4, 5, 6⟩) :
    exec .draw s = .next { s with words := ⟨2, 3, 1996432, 5, 6, 4292627759⟩, rsp := some ⟨.ok, 4335760⟩ } := by
  have hnext : Words.next ⟨1, 2, 3, 4, 5, 6⟩ = ⟨2, 3, 1996432, 5, 6, 4292627759⟩ := by decide
  have houtput : Words.output ⟨1, 2, 3, 4, 5, 6⟩ = 4335760 := by decide
  rw [exec_draw, h, hnext, houtput]
  rfl

/-- Settles O30: the decoder's equation for 2'b10, the two outcomes by the validity of the seed, and the example run. -/
theorem seedLoadsOrRefuses : Obligations.SeedLoadsOrRefuses := by
  refine ⟨fun _ => decode_of_op_seed, ?outcomes, ?run⟩
  case outcomes =>
    intro s w0 w1 w2 w3 w4 w5 he
    have hclauses := validSeedPredicate w0 w1 w2 w3 w4 w5
    split_ifs with hvalid
    · exact exec_seed_loaded he (hclauses.mpr hvalid)
    · exact exec_seed_refused he (Bool.eq_false_iff.mpr (mt hclauses.mp hvalid))
  case run =>
    intro s he
    exact ⟨_, _, exec_seed_loaded he (by decide), exec_draw_of_words_one_to_six rfl, rfl, rfl, rfl, rfl⟩

/-- Settles O34: the canonical seed is a valid one, and validity is the invariant of the words. -/
theorem seedSucceedsIntoTheInvariantOrKeepsTheWords : Obligations.SeedSucceedsIntoTheInvariantOrKeepsTheWords := by
  intro s he
  refine ⟨(exec_seed_loaded he validSeed_canonicalSeed).trans (exec_init s).symm, fun w0 w1 w2 w3 w4 w5 => ?_⟩
  cases hv : validSeed (seedOperand w0 w1 w2 w3 w4 w5)
  · exact ⟨_, exec_seed_refused he hv, .inr ⟨rfl, rfl⟩⟩
  · exact ⟨_, exec_seed_loaded he hv, .inl ⟨rfl, (validSeed_iff_inRange_not_degenerate _).mp hv⟩⟩

/-! ### The build without SEED (R107) -/

/-- With `SEED_EXT` = 0 no opcode has an operand, so `op` alone decides the command. -/
theorem decode_false_eq_of_op_eq {cmd cmd' : CommandWord} (hop : opField cmd = opField cmd') :
    decode false cmd = decode false cmd' := by
  by_cases hseed : opField cmd = 0b10#2
  · rw [decode_of_op_rsvd10 hseed, decode_of_op_rsvd10 (hop ▸ hseed)]
  · exact decode_eq_of_op_eq false hop hseed

theorem decode_false_ne_seed (cmd : CommandWord) (w0 w1 w2 w3 w4 w5 : Word) :
    decode false cmd ≠ .seed w0 w1 w2 w3 w4 w5 := by
  intro h
  have hwf := wellFormed_decode false cmd
  rw [h] at hwf
  exact Bool.false_ne_true hwf

theorem mealy_false_status_ne_invalidSeed (x : Words) (i : Instr) : (mealy false x i).2.status ≠ .invalidSeed := by
  cases i with
  | init => nofun
  | draw => nofun
  | seed w0 w1 w2 w3 w4 w5 =>
    rw [mealy_seed_absent x rfl]
    nofun
  | rsvd10 => nofun
  | rsvd11 => nofun

/-- From a state that DRAWs reach, INIT goes back to 0 DRAWs, DRAW makes one more, and the others make none. -/
theorem exists_draws_mealy_false (n : Nat) (i : Instr) :
    ∃ k, (mealy false (Words.next^[n] canonicalSeed) i).1 = Words.next^[k] canonicalSeed := by
  cases i with
  | init => exact ⟨0, rfl⟩
  | draw => exact ⟨n + 1, (Function.iterate_succ_apply' Words.next n canonicalSeed).symm⟩
  | seed w0 w1 w2 w3 w4 w5 => exact ⟨n, mealy_seed_words_of_not_loaded _ (.inl rfl)⟩
  | rsvd10 => exact ⟨n, rfl⟩
  | rsvd11 => exact ⟨n, rfl⟩

theorem exists_draws_mealyRun_false (is : List Instr) (n : Nat) :
    ∃ k, (mealyRun false is (Words.next^[n] canonicalSeed)).1 = Words.next^[k] canonicalSeed := by
  induction is generalizing n with
  | nil => exact ⟨n, rfl⟩
  | cons i is ih =>
    obtain ⟨k, hk⟩ := exists_draws_mealy_false n i
    rw [mealyRun_cons, hk]
    exact ih k

/-- Settles O35: the commands of the build without SEED are INIT, DRAW and the reserved ones, and a run of them from the
canonical seed starts after 0 DRAWs. -/
theorem withoutSeedExtOnlyDrawsMoveTheWords : Obligations.WithoutSeedExtOnlyDrawsMoveTheWords := by
  refine ⟨rfl, fun _ _ => decode_false_eq_of_op_eq, decode_false_ne_seed, ?reserved, ?statuses,
    fun is => exists_draws_mealyRun_false is 0⟩
  case reserved =>
    intro s cmd he hop
    have hdecode : decode s.seedExt cmd = .rsvd10 := by rw [he, decode_of_op_rsvd10 hop]
    exact hdecode ▸ exec_rsvd10 s
  case statuses =>
    intro s t i d he h hrsp
    rw [exec_next_iff, he] at h
    subst h
    exact mealy_false_status_ne_invalidSeed s.words i (congrArg Response.status (Option.some.inj hrsp))

end Sys2Proof.Machine

/-! PROOFS. The family 60_exceptions: the statuses and their causes (R111), and the precision of refusals (R110). -/

namespace Sys2Proof.Machine

/-! ### The statuses and their causes (R111) -/

theorem Status.code_ne_three (st : Status) : st.code ≠ 0b11#2 := by
  cases st <;> decide

/-- Only a SEED asks whether its operand is valid (R112). -/
theorem mealy_status_eq_invalidSeed_iff {seedExt : Bool} (x : Words) {i : Instr} (hi : WellFormed seedExt i = true) :
    (mealy seedExt x i).2.status = .invalidSeed ↔
      ∃ w0 w1 w2 w3 w4 w5, i = .seed w0 w1 w2 w3 w4 w5 ∧ validSeed (seedOperand w0 w1 w2 w3 w4 w5) = false := by
  cases i with
  | init => simp [mealy]
  | draw => simp [mealy]
  | seed w0 w1 w2 w3 w4 w5 =>
    have he : seedExt = true := hi
    cases hv : validSeed (seedOperand w0 w1 w2 w3 w4 w5)
    · rw [mealy_seed_refused x he hv]
      exact iff_of_true rfl ⟨w0, w1, w2, w3, w4, w5, rfl, hv⟩
    · rw [mealy_seed_loaded x he hv]
      simp [hv]
  | rsvd10 => simp [mealy]
  | rsvd11 => simp [mealy]

/-- A SEED that belongs to the build has an opcode that is not reserved (R113). -/
theorem mealy_status_eq_illegalOp_iff {seedExt : Bool} (x : Words) {i : Instr} (hi : WellFormed seedExt i = true) :
    (mealy seedExt x i).2.status = .illegalOp ↔ i = .rsvd10 ∨ i = .rsvd11 := by
  cases i with
  | init => simp [mealy]
  | draw => simp [mealy]
  | seed w0 w1 w2 w3 w4 w5 =>
    have he : seedExt = true := hi
    cases hv : validSeed (seedOperand w0 w1 w2 w3 w4 w5)
    · simp [mealy_seed_refused x he hv]
    · simp [mealy_seed_loaded x he hv]
  | rsvd10 => simp [mealy]
  | rsvd11 => simp [mealy]

theorem mealy_data (seedExt : Bool) (x : Words) (i : Instr) :
    (mealy seedExt x i).2.data = if i = .draw then x.output else 0#32 := by
  split_ifs with hi
  · subst hi
    rfl
  · exact mealy_data_of_ne_draw seedExt x hi

/-- Settles O38: the response of a command is that of the transaction machine, one lemma for each field of it. -/
theorem statusesHaveTheirCodesAndCauses : Obligations.StatusesHaveTheirCodesAndCauses :=
  ⟨⟨rfl, rfl, rfl, Status.code_ne_three⟩, fun i s hi =>
    ⟨_, _, exec_eq_mealy i s, rfl, mealy_status_eq_invalidSeed_iff s.words hi,
      mealy_status_eq_illegalOp_iff s.words hi, mealy_data s.seedExt s.words i⟩⟩

/-! ### The precision of refusals (R110) -/

/-- A command that is refused leaves the words: INIT, DRAW and a SEED that loads its operand all answer OK. -/
theorem mealy_words_of_status_ne_ok {seedExt : Bool} {x : Words} {i : Instr}
    (h : (mealy seedExt x i).2.status ≠ .ok) : (mealy seedExt x i).1 = x := by
  cases i with
  | init => exact absurd rfl h
  | draw => exact absurd rfl h
  | seed w0 w1 w2 w3 w4 w5 =>
    refine mealy_seed_words_of_not_loaded x ?_
    by_contra hload
    rw [not_or, Bool.not_eq_false, Bool.not_eq_false] at hload
    exact h (by rw [mealy_seed_loaded x hload.1 hload.2])
  | rsvd10 => rfl
  | rsvd11 => rfl

/-- A DRAW is never refused, so a refused command answers with no data. -/
theorem mealy_data_of_status_ne_ok {seedExt : Bool} {x : Words} {i : Instr}
    (h : (mealy seedExt x i).2.status ≠ .ok) : (mealy seedExt x i).2.data = 0#32 := by
  refine mealy_data_of_ne_draw seedExt x ?_
  rintro rfl
  exact h rfl

/-- No command sees which response stands before it. -/
theorem exec_setRsp (i : Instr) (s : State) (rsp : Option Response) : exec i { s with rsp := rsp } = exec i s :=
  (exec_clearResponse i { s with rsp := rsp }).symm.trans (exec_clearResponse i s)

/-- Settles O39: a refused command keeps the words, so the next one finds a state that differs in the response alone. -/
theorem refusedCommandLeavesNoTrace : Obligations.RefusedCommandLeavesNoTrace := by
  intro i s t r h hrsp hr
  rw [exec_next_iff] at h
  subst h
  obtain rfl := Option.some.inj hrsp
  rw [mealy_words_of_status_ne_ok hr]
  exact ⟨mealy_data_of_status_ne_ok hr, rfl, fun j => exec_setRsp j s _⟩

end Sys2Proof.Machine

/-! PROOFS. The family 70_reset_and_hazards: the clock edges of the signal-level binding (R130, R140 to R144), and its
refinement of the transaction machine (R137, R145). -/

namespace Sys2Proof.Machine

/-! ### Readiness and acceptance (R140, R141) -/

theorem State.cmdReady_eq_true_iff (s : State) : s.cmdReady = true ↔ s.inFlight = none := Option.isNone_iff_eq_none

theorem accepts_eq_true_iff (pins : InputPins) (s : State) :
    accepts pins s = true ↔ pins.rst = false ∧ pins.cmdValid = true ∧ s.inFlight = none := by
  rw [accepts, Bool.and_eq_true, Bool.and_eq_true, Bool.not_eq_true', State.cmdReady_eq_true_iff, and_assoc]

theorem accepts_of_rst {pins : InputPins} (s : State) (h : pins.rst = true) : accepts pins s = false := by
  simp [accepts, h]

theorem accepts_of_inFlight {pins : InputPins} {s : State} {f : InFlight} (h : s.inFlight = some f) :
    accepts pins s = false := by
  simp [accepts, State.cmdReady, h]

theorem State.setInFlight_none_of_idle {s : State} (h : s.inFlight = none) : s.setInFlight none = s := by
  rw [← h]
  rfl

theorem inFlight_of_exec {i : Instr} {s t : State} (h : exec i s = .next t) : t.inFlight = s.inFlight := by
  obtain ⟨-, hf, -⟩ := commandFrame i s t h
  exact hf

/-! ### One edge without reset (R141 to R143) -/

/-- The edge of an idle engine that accepts nothing. -/
theorem clockEdge_of_not_accepts (extra : Nat) {pins : InputPins} {s : State} (hr : pins.rst = false)
    (hf : s.inFlight = none) (ha : accepts pins s = false) : clockEdge extra pins s = .next s.clearResponse := by
  simp [clockEdge, hr, hf, ha]

/-- What an edge without reset can do, and when: it counts down, completes, executes at once, takes in flight, or does
nothing. -/
theorem clockEdge_cases_of_not_rst (extra : Nat) {pins : InputPins} (s : State) (hr : pins.rst = false) :
    (∃ i n, s.inFlight = some ⟨i, n + 1⟩ ∧
      clockEdge extra pins s = .next (s.clearResponse.setInFlight (some ⟨i, n⟩))) ∨
    (∃ i, s.inFlight = some ⟨i, 0⟩ ∧ clockEdge extra pins s = exec i (s.setInFlight none)) ∨
    (accepts pins s = true ∧ extra = 0 ∧ clockEdge extra pins s = exec (pins.command s.seedExt) s) ∨
    (∃ n, accepts pins s = true ∧ extra = n + 1 ∧
      clockEdge extra pins s = .next (s.clearResponse.setInFlight (some ⟨pins.command s.seedExt, n⟩))) ∨
    (accepts pins s = false ∧ s.inFlight = none ∧ clockEdge extra pins s = .next s.clearResponse) := by
  rcases hf : s.inFlight with _ | ⟨i, _ | n⟩
  · cases ha : accepts pins s
    · exact .inr (.inr (.inr (.inr ⟨rfl, rfl, clockEdge_of_not_accepts extra hr hf ha⟩)))
    · cases extra with
      | zero => exact .inr (.inr (.inl ⟨rfl, rfl, clockEdge_accept 0 ha⟩))
      | succ n => exact .inr (.inr (.inr (.inl ⟨n, rfl, rfl, clockEdge_accept (n + 1) ha⟩)))
  · exact .inr (.inl ⟨i, rfl, clockEdge_busy extra hr hf⟩)
  · exact .inl ⟨i, n, rfl, clockEdge_busy extra hr hf⟩

/-- Settles O49: a reset edge applies the reset, and its `rst` = 1 rules out acceptance. -/
theorem resetAtAClockEdge : Obligations.ResetAtAClockEdge := fun extra _ s hr =>
  ⟨accepts_of_rst s hr, s.applyReset, clockEdge_reset extra s hr, rfl, rfl, fun _ _ => rfl⟩

/-- Settles O46: an accepting edge is `accept` of the decoded pins, and an edge that accepts nothing is decided by
`rst` and the command in flight alone. -/
theorem commandAcceptance : Obligations.CommandAcceptance := by
  refine ⟨accepts_eq_true_iff, ?accepted, ?ignored⟩
  case accepted =>
    intro extra pins s ha
    obtain ⟨-, -, hf⟩ := (accepts_eq_true_iff pins s).mp ha
    cases extra with
    | zero =>
      have hexec := exec_eq_mealy (pins.command s.seedExt) s
      exact ⟨_, (clockEdge_accept 0 ha).trans hexec, hf, fun _ => hexec⟩
    | succ n => exact ⟨_, clockEdge_accept (n + 1) ha, rfl, nofun⟩
  case ignored =>
    intro extra extra' pins pins' s hrst ha ha'
    cases hr : pins.rst
    · have hr' : pins'.rst = false := hrst ▸ hr
      cases hf : s.inFlight with
      | none => rw [clockEdge_of_not_accepts extra hr hf ha, clockEdge_of_not_accepts extra' hr' hf ha']
      | some f => rw [clockEdge_busy extra hr hf, clockEdge_busy extra' hr' hf]
    · rw [clockEdge_reset extra s hr, clockEdge_reset extra' s (hrst ▸ hr)]

/-! ### A run by its first edge -/

section
variable {e : Edge} {s t : State} (es : List Edge) (h : clockEdge e.extra e.pins s = .next t)
include h

theorem runEdges_cons : runEdges (e :: es) s = runEdges es t := by
  rw [runEdges, h]

theorem pulses_cons : pulses (e :: es) s = t.rsp.toList ++ pulses es t := by
  rw [pulses, h]

end

/-- The command accepted at an edge, if there is one. -/
def acceptedAt (pins : InputPins) (s : State) : List Instr :=
  if accepts pins s then [pins.command s.seedExt] else []

theorem acceptedAt_of_accepts {pins : InputPins} {s : State} (h : accepts pins s = true) :
    acceptedAt pins s = [pins.command s.seedExt] := if_pos h

theorem acceptedAt_of_not_accepts {pins : InputPins} {s : State} (h : accepts pins s = false) :
    acceptedAt pins s = [] := by
  simp [acceptedAt, h]

theorem acceptedCommands_cons {e : Edge} {s t : State} (es : List Edge) (h : clockEdge e.extra e.pins s = .next t) :
    acceptedCommands (e :: es) s = acceptedAt e.pins s ++ acceptedCommands es t := by
  rw [acceptedCommands, h]
  cases ha : accepts e.pins s
  · rw [acceptedAt_of_not_accepts ha]
    rfl
  · rw [acceptedAt_of_accepts ha]
    rfl

/-! ### From the accepting edge to the completing one (R142, R143) -/

/-- An edge of an engine that holds a command with edges left counts one of them down. -/
theorem clockEdge_held_succ (extra : Nat) {pins : InputPins} (i : Instr) (n : Nat) (s : State)
    (hr : pins.rst = false) :
    clockEdge extra pins (s.clearResponse.setInFlight (some ⟨i, n + 1⟩)) =
      .next (s.clearResponse.setInFlight (some ⟨i, n⟩)) :=
  (clockEdge_busy extra hr (State.setInFlight_inFlight ..)).trans (busyEdge_succ i n _)

/-- An edge of an engine that holds a command with no edge left executes it. -/
theorem clockEdge_held_zero (extra : Nat) {pins : InputPins} (i : Instr) (s : State) (hr : pins.rst = false) :
    clockEdge extra pins (s.clearResponse.setInFlight (some ⟨i, 0⟩)) = exec i (s.setInFlight none) :=
  (clockEdge_busy extra hr (State.setInFlight_inFlight ..)).trans (exec_clearResponse i (s.setInFlight none))

/-- The edges before the completing one count down and leave everything else. -/
theorem runEdges_before_completion (i : Instr) (s : State) (es : List Edge) (n : Nat)
    (hr : ∀ e ∈ es, e.pins.rst = false) (hlen : es.length ≤ n) :
    runEdges es (s.clearResponse.setInFlight (some ⟨i, n⟩)) =
      .next (s.clearResponse.setInFlight (some ⟨i, n - es.length⟩)) := by
  induction es generalizing n with
  | nil => rfl
  | cons e es ih =>
    rw [List.forall_mem_cons] at hr
    obtain ⟨he, hes⟩ := hr
    rw [List.length_cons] at hlen ⊢
    obtain ⟨m, rfl⟩ : ∃ m, n = m + 1 := ⟨n - 1, by omega⟩
    rw [runEdges_cons es (clockEdge_held_succ e.extra i m s he), Nat.add_sub_add_right]
    exact ih m hes (by omega)

/-- The command in flight is executed at the edge at which its count has run out, on the words that stand there. -/
theorem runEdges_to_completion (i : Instr) (s : State) (es : List Edge) (n : Nat)
    (hr : ∀ e ∈ es, e.pins.rst = false) (hlen : es.length = n + 1) :
    runEdges es (s.clearResponse.setInFlight (some ⟨i, n⟩)) = exec i (s.setInFlight none) := by
  induction n generalizing es with
  | zero =>
    obtain ⟨e, rfl⟩ := List.length_eq_one_iff.mp hlen
    have hexec := clockEdge_held_zero e.extra i s (hr e List.mem_cons_self)
    rw [exec_eq_mealy] at hexec ⊢
    exact runEdges_cons [] hexec
  | succ n ih =>
    obtain ⟨e, es, rfl⟩ := List.exists_cons_of_length_eq_add_one hlen
    rw [List.forall_mem_cons] at hr
    rw [runEdges_cons es (clockEdge_held_succ e.extra i n s hr.1)]
    exact ih es hr.2 (Nat.succ.inj hlen)

/-- From the accepting edge E to edge E + L - 1 the run is the command executed in the state it was accepted in. -/
theorem runEdges_accept_to_completion {e : Edge} {es : List Edge} {s : State} (ha : accepts e.pins s = true)
    (hr : ∀ e' ∈ es, e'.pins.rst = false) (hlen : es.length = e.extra) :
    runEdges (e :: es) s = exec (e.pins.command s.seedExt) s := by
  obtain ⟨-, -, hf⟩ := (accepts_eq_true_iff _ _).mp ha
  have hedge := clockEdge_accept e.extra ha
  cases hx : e.extra with
  | zero =>
    obtain rfl : es = [] := List.length_eq_zero_iff.mp (hlen.trans hx)
    rw [hx, accept_zero, exec_eq_mealy] at hedge
    rw [exec_eq_mealy, runEdges_cons [] (hx ▸ hedge)]
    rfl
  | succ n =>
    rw [hx, accept_succ] at hedge
    rw [runEdges_cons es (hx ▸ hedge), runEdges_to_completion _ s es n hr (hlen.trans hx),
      State.setInFlight_none_of_idle hf]

/-- Settles O47: a run that stops before the completing edge ends with the command held and the count run down, one
that reaches it ends as `exec` does, with nothing in flight. -/
theorem busyUntilTheCompletingEdge : Obligations.BusyUntilTheCompletingEdge := by
  refine ⟨?busy, ?ready, ?never⟩
  case busy =>
    intro e es s ha hr hlen
    obtain ⟨n, hx⟩ : ∃ n, e.extra = n + 1 := ⟨e.extra - 1, by omega⟩
    have hedge := clockEdge_accept e.extra ha
    rw [hx, accept_succ] at hedge
    have hrun := runEdges_before_completion (e.pins.command s.seedExt) s es n hr (by omega)
    exact ⟨_, (runEdges_cons es (hx ▸ hedge)).trans hrun, rfl, rfl, rfl, rfl, rfl, rfl⟩
  case ready =>
    intro e es s ha hr hlen
    obtain ⟨-, -, hf⟩ := (accepts_eq_true_iff _ _).mp ha
    refine ⟨_, (runEdges_accept_to_completion ha hr hlen).trans (exec_eq_mealy _ _), ?_⟩
    exact (State.cmdReady_eq_true_iff _).mpr hf
  case never =>
    intro pins s hready
    have hf := (State.cmdReady_eq_true_iff s).mp hready
    rcases clockEdge_cases 0 pins s with he | ⟨f, hf', -⟩ | ⟨-, he⟩ | ⟨-, he⟩
    · exact ⟨_, he, rfl⟩
    · rw [hf] at hf'
      cases hf'
    · exact ⟨_, he.trans (exec_eq_mealy _ s), hready⟩
    · exact ⟨_, he, hready⟩

theorem rsp_ne_none_of_exec {i : Instr} {s t : State} (h : exec i s = .next t) : t.rsp ≠ none := by
  rw [exec_next_iff] at h
  rw [← h]
  nofun

/-- A response is presented after exactly the edges that execute a command. -/
theorem rsp_ne_none_iff_of_clockEdge {extra : Nat} {pins : InputPins} {s t : State}
    (h : clockEdge extra pins s = .next t) :
    t.rsp ≠ none ↔
      pins.rst = false ∧ ((∃ i, s.inFlight = some ⟨i, 0⟩) ∨ (accepts pins s = true ∧ extra = 0)) := by
  cases hr : pins.rst
  · rcases clockEdge_cases_of_not_rst extra s hr with
      ⟨i, n, hf, he⟩ | ⟨i, hf, he⟩ | ⟨ha, hx, he⟩ | ⟨n, ha, hx, he⟩ | ⟨ha, hf, he⟩
    · obtain rfl := Host.Outcome.next.inj (he.symm.trans h)
      simp [hf, accepts_of_inFlight hf]
    · exact iff_of_true (rsp_ne_none_of_exec (he.symm.trans h)) ⟨rfl, .inl ⟨i, hf⟩⟩
    · exact iff_of_true (rsp_ne_none_of_exec (he.symm.trans h)) ⟨rfl, .inr ⟨ha, hx⟩⟩
    · obtain rfl := Host.Outcome.next.inj (he.symm.trans h)
      simp [((accepts_eq_true_iff pins s).mp ha).2.2, hx]
    · obtain rfl := Host.Outcome.next.inj (he.symm.trans h)
      simp [hf, ha]
  · obtain rfl := Host.Outcome.next.inj ((clockEdge_reset extra s hr).symm.trans h)
    simp

theorem State.outputs_of_rsp {s : State} {r : Response} (h : s.rsp = some r) (st : BitVec 2) (d : Word) :
    s.outputs st d = ⟨s.cmdReady, true, r.status.code, r.data⟩ := by
  rw [State.outputs, h]

theorem State.outputs_of_no_rsp {s : State} (h : s.rsp = none) (st : BitVec 2) (d : Word) :
    s.outputs st d = ⟨s.cmdReady, false, st, d⟩ := by
  rw [State.outputs, h]

/-- Settles O48: at the completing edge the run has come to `exec` of the accepted command, which presents its response
and leaves nothing in flight. -/
theorem completionAtEdgeEPlusLMinusOne : Obligations.CompletionAtEdgeEPlusLMinusOne := by
  refine ⟨?completes, fun _ _ _ _ => rsp_ne_none_iff_of_clockEdge, fun _ st d h => State.outputs_of_no_rsp h st d⟩
  intro e es s ha hr hlen
  obtain ⟨-, -, hf⟩ := (accepts_eq_true_iff _ _).mp ha
  have hexec := exec_eq_mealy (e.pins.command s.seedExt) s
  have hready := (State.cmdReady_eq_true_iff _).mpr ((inFlight_of_exec hexec).trans hf)
  refine ⟨_, _, (runEdges_accept_to_completion ha hr hlen).trans hexec, hexec, hready, rfl, fun st d => ?_⟩
  rw [State.outputs_of_rsp rfl, hready]

/-! ### The binding refines the transaction machine (R137, R145) -/

/-- The command accepted and not yet answered, if there is one. -/
def State.pending (s : State) : List Instr := (s.inFlight.map (·.instr)).toList

theorem State.pending_of_idle {s : State} (h : s.inFlight = none) : s.pending = [] := by
  rw [State.pending, h]
  rfl

theorem State.pending_of_inFlight {s : State} {f : InFlight} (h : s.inFlight = some f) : s.pending = [f.instr] := by
  rw [State.pending, h]
  rfl

theorem mealyRun_append (seedExt : Bool) (is js : List Instr) (x : Words) :
    mealyRun seedExt (is ++ js) x =
      ((mealyRun seedExt js (mealyRun seedExt is x).1).1,
        (mealyRun seedExt is x).2 ++ (mealyRun seedExt js (mealyRun seedExt is x).1).2) := by
  induction is generalizing x with
  | nil => rfl
  | cons i is ih =>
    rw [List.cons_append, mealyRun_cons, mealyRun_cons, ih]
    rfl

/-- `cs` are the commands that were answered on the way from `s` to `t`, with the responses `rs`: the commands taken in
are those and the one that `t` has pending, and the transaction machine answers them with `rs` and holds the words
of `t`. -/
structure Answered (s t : State) (taken cs : List Instr) (rs : List Response) : Prop where
  seedExt_eq : t.seedExt = s.seedExt
  pending_eq : s.pending ++ taken = cs ++ t.pending
  mealyRun_eq : mealyRun s.seedExt cs s.words = (t.words, rs)

theorem Answered.refl (s : State) : Answered s s [] [] [] := ⟨rfl, List.append_nil _, rfl⟩

theorem Answered.trans {s u t : State} {taken taken' cs cs' : List Instr} {rs rs' : List Response}
    (h : Answered s u taken cs rs) (h' : Answered u t taken' cs' rs') :
    Answered s t (taken ++ taken') (cs ++ cs') (rs ++ rs') where
  seedExt_eq := h'.seedExt_eq.trans h.seedExt_eq
  pending_eq := by
    rw [← List.append_assoc, h.pending_eq, List.append_assoc, h'.pending_eq, List.append_assoc]
  mealyRun_eq := by
    rw [mealyRun_append, h.mealyRun_eq, ← h.seedExt_eq, h'.mealyRun_eq]

/-- An edge that executes the command taken or pending answers it. -/
theorem Answered.of_exec {i : Instr} {s u t : State} {taken : List Instr} (hwords : u.words = s.words)
    (hext : u.seedExt = s.seedExt) (hf : u.inFlight = none) (htaken : s.pending ++ taken = [i])
    (h : exec i u = .next t) : Answered s t taken [i] t.rsp.toList := by
  have ht : t.pending = [] := State.pending_of_idle ((inFlight_of_exec h).trans hf)
  rw [exec_next_iff] at h
  subst h
  refine ⟨hext, by rw [htaken, ht, List.append_nil], ?_⟩
  rw [← hext, ← hwords]
  rfl

/-- A busy engine accepts nothing, so all it has is the command in flight. -/
theorem pending_append_acceptedAt_of_inFlight (pins : InputPins) {s : State} {f : InFlight}
    (h : s.inFlight = some f) : s.pending ++ acceptedAt pins s = [f.instr] := by
  rw [State.pending_of_inFlight h, acceptedAt_of_not_accepts (accepts_of_inFlight h), List.append_nil]

/-- An engine that accepts is idle, so all it has is the accepted command. -/
theorem pending_append_acceptedAt_of_accepts {pins : InputPins} {s : State} (h : accepts pins s = true) :
    s.pending ++ acceptedAt pins s = [pins.command s.seedExt] := by
  obtain ⟨-, -, hf⟩ := (accepts_eq_true_iff pins s).mp h
  rw [State.pending_of_idle hf, acceptedAt_of_accepts h, List.nil_append]

/-- One edge without reset takes in what it accepts and answers what it completes. -/
theorem exists_answered_clockEdge (extra : Nat) {pins : InputPins} (s : State) (hr : pins.rst = false) :
    ∃ t cs, clockEdge extra pins s = .next t ∧ Answered s t (acceptedAt pins s) cs t.rsp.toList := by
  obtain ⟨t, ht⟩ := exists_clockEdge_next extra pins s
  rcases clockEdge_cases_of_not_rst extra s hr with
    ⟨i, n, hf, he⟩ | ⟨i, hf, he⟩ | ⟨ha, -, he⟩ | ⟨n, ha, -, he⟩ | ⟨ha, hf, he⟩
  · obtain rfl := Host.Outcome.next.inj (he.symm.trans ht)
    have hall := pending_append_acceptedAt_of_inFlight pins hf
    exact ⟨_, [], ht, rfl, hall, rfl⟩
  · have hall := pending_append_acceptedAt_of_inFlight pins hf
    exact ⟨t, [i], ht, .of_exec (u := s.setInFlight none) rfl rfl rfl hall (he.symm.trans ht)⟩
  · obtain ⟨-, -, hf⟩ := (accepts_eq_true_iff pins s).mp ha
    have hall := pending_append_acceptedAt_of_accepts ha
    exact ⟨t, _, ht, .of_exec rfl rfl hf hall (he.symm.trans ht)⟩
  · obtain rfl := Host.Outcome.next.inj (he.symm.trans ht)
    exact ⟨_, [], ht, rfl, pending_append_acceptedAt_of_accepts ha, rfl⟩
  · obtain rfl := Host.Outcome.next.inj (he.symm.trans ht)
    refine ⟨_, [], ht, rfl, ?_, rfl⟩
    rw [acceptedAt_of_not_accepts ha, List.append_nil]
    rfl

/-- A run without reset, from any state, answers the command in flight and then the accepted ones, in order. -/
theorem exists_answered_runEdges (es : List Edge) (s : State) (hr : ∀ e ∈ es, e.pins.rst = false) :
    ∃ t cs, runEdges es s = .next t ∧ Answered s t (acceptedCommands es s) cs (pulses es s) := by
  induction es generalizing s with
  | nil => exact ⟨s, [], rfl, .refl s⟩
  | cons e es ih =>
    rw [List.forall_mem_cons] at hr
    obtain ⟨u, cs, hu, hfirst⟩ := exists_answered_clockEdge e.extra s hr.1
    obtain ⟨t, cs', ht, hrest⟩ := ih u hr.2
    refine ⟨t, cs ++ cs', (runEdges_cons es hu).trans ht, ?_⟩
    rw [acceptedCommands_cons es hu, pulses_cons es hu]
    exact hfirst.trans hrest

/-- Settles O50: after the reset nothing is pending and the words are the canonical seed. -/
theorem clockedRunAnswersTheAcceptedCommands : Obligations.ClockedRunAnswersTheAcceptedCommands := by
  intro e es s hr hes
  have hedge := clockEdge_reset e.extra s hr
  obtain ⟨t, done, ht, hanswered⟩ := exists_answered_runEdges es s.applyReset hes
  refine ⟨t, done, (runEdges_cons es hedge).trans ht, ?_, ?_⟩
  · rw [acceptedCommands_cons es hedge, acceptedAt_of_not_accepts (accepts_of_rst s hr)]
    exact hanswered.pending_eq
  · rw [pulses_cons es hedge]
    exact hanswered.mealyRun_eq

/-- Between idle states the commands answered are exactly the accepted ones. -/
theorem mealyRun_acceptedCommands {es : List Edge} {s t : State} (hs : s.inFlight = none)
    (hr : ∀ e ∈ es, e.pins.rst = false) (h : runEdges es s = .next t) (ht : t.inFlight = none) :
    mealyRun s.seedExt (acceptedCommands es s) s.words = (t.words, pulses es s) := by
  obtain ⟨t', cs, h', hanswered⟩ := exists_answered_runEdges es s hr
  obtain rfl := Host.Outcome.next.inj (h'.symm.trans h)
  have hcs : acceptedCommands es s = cs := by
    have hpending := hanswered.pending_eq
    rwa [State.pending_of_idle hs, State.pending_of_idle ht, List.nil_append, List.append_nil] at hpending
  rw [hcs]
  exact hanswered.mealyRun_eq

/-- Settles O51: both runs answer as the transaction machine does to the same commands from the same words. -/
theorem latencyChangesNoResponse : Obligations.LatencyChangesNoResponse := by
  intro es es' s t t' hs hr hr' h h' ht ht' hcommands
  have hrun := mealyRun_acceptedCommands hs hr h ht
  rw [hcommands, mealyRun_acceptedCommands hs hr' h' ht', Prod.mk.injEq] at hrun
  exact ⟨hrun.2.symm, hrun.1.symm⟩

end Sys2Proof.Machine

/-! PROOFS. What belongs to no one operation: written-out command words (V29, R59), the placed table word (log entry 4),
the steps over the host's actions (R36; log entry 3) and the reset they can hold (R130). -/

namespace Sys2Proof.Machine

open Sys2Proof.Laws

/-- Settles O1: `op` alone selects the operation, and the two SEED words are read field by field. -/
theorem writtenOutCommandWordsDecode : Obligations.WrittenOutCommandWordsDecode :=
  ⟨decode_of_op_init (opField_commandWord _ _), decode_of_op_draw (opField_commandWord _ _),
    decode_of_op_rsvd10 (opField_commandWord _ _), decode_of_op_rsvd11 (opField_commandWord _ _),
    decode_of_op_draw (by decide), by decide, by decide, decode_of_op_rsvd11 (by decide)⟩

/-- Settles O27: the canonical seed is in range and not degenerate, and after reset nothing is in flight. -/
theorem resetMeetsTheInvariant : Obligations.ResetMeetsTheInvariant :=
  ⟨inRange_canonicalSeed, not_degenerate_canonicalSeed, fun _ hf => absurd hf (Option.not_mem_none _)⟩

/-! ### One step -/

/-- The step after a command word was offered executes the command decoded from it. -/
theorem step_offer (cmd : CommandWord) (s : State) :
    step (s.offer cmd) = exec (decode true cmd) { s with seedExt := true, inFlight := none } :=
  transaction_command rfl rfl

theorem decode_of_decodeTableWord {nbits w : Nat} {i : Instr} (h : decodeTableWord nbits w = some i) :
    decode true (BitVec.ofNat 194 (w % 2 ^ nbits)) = i := by
  rw [decodeTableWord, Option.ite_none_right_eq_some] at h
  exact Option.some.inj h.2

/-- Settles O7: `withFetchWord` offers the very word that the table decoder reads. -/
theorem placedTableWordIsExecuted : Obligations.PlacedTableWordIsExecuted := by
  intro s nbits w i h
  rw [← decode_of_decodeTableWord h]
  exact step_offer _ s

/-- Settles O8: this is the transaction of the idle engine that is offered a command. -/
theorem stepRunsTheDecodedCommand : Obligations.StepRunsTheDecodedCommand :=
  fun _ _ _ => transaction_command

/-- Settles O9: a gap, the empty list, and a command in flight are three cases of the transaction. -/
theorem stepWithoutANewCommand : Obligations.StepWithoutANewCommand :=
  ⟨fun _ _ => transaction_idle, fun _ => transaction_empty, fun _ _ => transaction_inFlight⟩

/-- Settles O45: the transaction looks for a reset before anything else, and INIT writes the words of reset. -/
theorem resetOverridesEverything : Obligations.ResetOverridesEverything :=
  fun s _ hh => ⟨_, transaction_reset hh, exec_init s, rfl, rfl⟩

/-- Settles O52: each of the three kinds of action has one equation as a transaction and one as a clock edge. -/
theorem stepIsAClockEdgeOfLatencyOne : Obligations.StepIsAClockEdgeOfLatencyOne := by
  refine fun s rest hf => ⟨fun op seed => ?command, fun op seed => ?idle, fun valid op seed => ?reset⟩
  case command =>
    have ha : accepts ⟨false, true, op, seed⟩ { s with host := rest } = true :=
      (accepts_eq_true_iff _ _).mpr ⟨rfl, rfl, hf⟩
    rw [clockEdge_accept 0 ha]
    exact transaction_command hf rfl
  case idle =>
    rw [clockEdge_idle 0 (pins := ⟨false, false, op, seed⟩) (s := { s with host := rest }) rfl rfl hf]
    exact transaction_idle hf rfl
  case reset =>
    rw [clockEdge_reset 0 _ rfl]
    exact transaction_reset rfl

/-! ### The steps over a list of host actions (R36) -/

/-- The responses of several steps begin with the one the first step presents, if it presents one. -/
theorem stepReplies_succ {s t : State} (k : Nat) (h : step s = .next t) :
    stepReplies (k + 1) s = t.rsp.toList ++ stepReplies k t := by
  rw [stepReplies, h]

/-- One step of the idle engine takes one host action: from the state after it, the run over the remaining actions
has the same words at its end, and lacks only the response that this step presents. -/
theorem exists_step_hostRun {s : State} {a : HostAction} {rest : List HostAction} (hf : s.inFlight = none)
    (hh : s.host = a :: rest) :
    ∃ t, step s = .next t ∧ t.host = rest ∧ t.inFlight = none ∧ t.seedExt = s.seedExt ∧
      hostRun s.seedExt (a :: rest) s.words =
        ((hostRun s.seedExt rest t.words).1, t.rsp.toList ++ (hostRun s.seedExt rest t.words).2) := by
  cases a with
  | idle => exact ⟨_, transaction_idle hf hh, rfl, hf, rfl, rfl⟩
  | reset => exact ⟨_, transaction_reset hh, rfl, rfl, rfl, rfl⟩
  | command cmd => exact ⟨_, (transaction_command hf hh).trans (exec_eq_mealy _ _), rfl, hf, rfl, rfl⟩

/-- As many steps as the host has actions follow the transaction machine over them. -/
theorem exists_run_hostRun (as : List HostAction) {s : State} (hf : s.inFlight = none) (hh : s.host = as) :
    ∃ t, Host.Core.run Sys2Proof.core as.length s = .next t ∧ t.host = [] ∧ t.inFlight = none ∧
      t.seedExt = s.seedExt ∧ hostRun s.seedExt as s.words = (t.words, stepReplies as.length s) := by
  induction as generalizing s with
  | nil => exact ⟨s, rfl, hh, hf, rfl, rfl⟩
  | cons a rest ih =>
    obtain ⟨u, hstep, hhost, hflight, hext, hfirst⟩ := exists_step_hostRun hf hh
    obtain ⟨t, hrun, ht, htf, htext, hrest⟩ := ih hflight hhost
    refine ⟨t, (core_run_succ hstep).trans hrun, ht, htf, htext.trans hext, ?_⟩
    rw [hfirst, ← hext, hrest, List.length_cons, stepReplies_succ _ hstep]

/-- Settles O42: the list of actions is the one the host has, by induction over it. -/
theorem hostActionsExecuteInOrder : Obligations.HostActionsExecuteInOrder := by
  intro s hf
  obtain ⟨t, hrun, hhost, hflight, hext, hwords⟩ := exists_run_hostRun s.host hf rfl
  exact ⟨t, hrun, hhost, hflight, hext, by rw [hwords], by rw [hwords]⟩

end Sys2Proof.Machine
